-- ==== Sys2Proof/Word.lean ====
section
/-! DEFINITION. The words of the LCDF. Every value of the hardware is an unsigned bit vector whose
bit 0 is the least significant bit (spec/00_scope.md R5); nothing in it is signed. -/

namespace Sys2Proof

/-- A command word, presented whole on the command port (R50). -/
abbrev Word := BitVec 32

/-- An expander byte, a command byte, a flag register, an operand `col` or `row`. -/
abbrev Byte := BitVec 8

/-- What one nibble transmission carries (R90). -/
abbrev Nibble := BitVec 4

end Sys2Proof
end

