-- ==== Sys2Proof/Syntax.lean ====
section
/-! DEFINITION. The operations of the LCDF: one constructor per row of spec/opcode_table.json
(spec/30_encoding.md R52), in the table's order. `PRINT_STR` has no row and no constructor: it is a
pseudo-operation that the host expands (R64; Decode.lean, Machine/Character.lean). -/

namespace Sys2Proof

/-- One public operation with its operands as they stand in the command word (R51). -/
inductive Instr where
  /-- `INIT`, R130. -/
  | init
  /-- `PRINT cp`, R102: `cp` is the 24-bit argument field. -/
  | print (cp : BitVec 24)
  /-- `SET_CURSOR col, row`, R105: both operands unsigned and 8 bits wide. -/
  | setCursor (col row : Byte)
  /-- `CLEAR`, R106. -/
  | clear
  /-- `SCROLL_LEFT`, R107. -/
  | scrollLeft
  /-- `SCROLL_RIGHT`, R108. -/
  | scrollRight
  /-- `BACKLIGHT`, R109. -/
  | backlight
  /-- `NO_BACKLIGHT`, R110. -/
  | noBacklight
  /-- `DISPLAY`, R111. -/
  | display
  /-- `NO_DISPLAY`, R112. -/
  | noDisplay
  /-- `LEFT_TO_RIGHT`, R113. -/
  | leftToRight
  /-- `RIGHT_TO_LEFT`, R114. -/
  | rightToLeft
  deriving DecidableEq, Repr

/-- The three formats of a command word (R50). -/
inductive Format where
  /-- No operand: bits 23:0 must be zero. -/
  | n
  /-- Print: bits 23:0 are the code point. -/
  | p
  /-- Cursor: bits 23:16 must be zero, 15:8 are `row`, 7:0 are `col`. -/
  | c
  deriving DecidableEq, Repr

end Sys2Proof
end

