-- ==== Sys2Proof/WellFormed.lean ====
section
/-! DEFINITION. Well-formedness. The LCDF checks no operand at decode (R51: the code point is not
checked to be a scalar value, `row` and `col` are used as they stand), and the fields of `Instr` have
exactly the widths of the command word, so every term of `Instr` is an operation that a command word
encodes. What can be ill-formed is a number written in assembler source (R63): it must fit the field it
is written into. -/

namespace Sys2Proof

/-- Every term of `Instr` is well formed: its operands have the widths of their fields (R51). -/
def Instr.wellFormed : Instr → Bool
  | .init => true
  | .print _ => true
  | .setCursor _ _ => true
  | .clear => true
  | .scrollLeft => true
  | .scrollRight => true
  | .backlight => true
  | .noBacklight => true
  | .display => true
  | .noDisplay => true
  | .leftToRight => true
  | .rightToLeft => true

/-- A number written as the operand of `PRINT` fits the 24-bit argument field (R50, format P). -/
def codePointFits (n : Nat) : Bool := n < 2 ^ 24

/-- A number written as an operand of `SET_CURSOR` fits its 8-bit field (R50, format C). -/
def cursorOperandFits (n : Nat) : Bool := n < 2 ^ 8

end Sys2Proof
end

