-- ==== Sys2Proof/Decode.lean ====
section
/-! DEFINITION. The command word: the opcode map (R52), the decoder, total on every word and rejecting
by name (R53, R54), the encoder written from the same formats (R50, R51), and the assembler source of
R63 with the pseudo-operation `PRINT_STR` (R64). -/

namespace Sys2Proof

/-! ## The opcode map -/

/-- The opcode of an operation, bits 31:24 of its word (R52). -/
def opcode : Instr → Byte
  | .init => 0x01
  | .print _ => 0x02
  | .setCursor _ _ => 0x03
  | .clear => 0x04
  | .scrollLeft => 0x05
  | .scrollRight => 0x06
  | .backlight => 0x07
  | .noBacklight => 0x08
  | .display => 0x09
  | .noDisplay => 0x0A
  | .leftToRight => 0x0B
  | .rightToLeft => 0x0C

/-- The format of an operation (R52). -/
def format : Instr → Format
  | .init => .n
  | .print _ => .p
  | .setCursor _ _ => .c
  | .clear => .n
  | .scrollLeft => .n
  | .scrollRight => .n
  | .backlight => .n
  | .noBacklight => .n
  | .display => .n
  | .noDisplay => .n
  | .leftToRight => .n
  | .rightToLeft => .n

/-! ## Decoding -/

/-- Why a command word is illegal (R54). -/
inductive Illegal where
  /-- The opcode is `0x00` or one of `0x0D` to `0xFF`. -/
  | noSuchOpcode
  /-- A format-N opcode with a non-zero bit in `arg`. -/
  | argumentNotZero
  /-- `SET_CURSOR` with a non-zero bit in 23:16. -/
  | cursorFieldNotZero
  deriving DecidableEq, Repr

/-- A format-N operation: all of `arg` must be zero (R53). -/
def decodeN (arg : BitVec 24) (i : Instr) : Except Illegal Instr :=
  if arg = 0 then .ok i else .error .argumentNotZero

/-- A format-C operation: bits 23:16 must be zero; `row` is 15:8 and `col` is 7:0 (R51, R53). -/
def decodeC (arg : BitVec 24) : Except Illegal Instr :=
  if arg.extractLsb' 16 8 = 0 then .ok (.setCursor (arg.extractLsb' 0 8) (arg.extractLsb' 8 8))
  else .error .cursorFieldNotZero

/-- The operation that an opcode with its argument field selects, or why it selects none (R52 to R54). -/
def decodeFields (op : Byte) (arg : BitVec 24) : Except Illegal Instr :=
  if op = 0x01 then decodeN arg .init
  else if op = 0x02 then .ok (.print arg)
  else if op = 0x03 then decodeC arg
  else if op = 0x04 then decodeN arg .clear
  else if op = 0x05 then decodeN arg .scrollLeft
  else if op = 0x06 then decodeN arg .scrollRight
  else if op = 0x07 then decodeN arg .backlight
  else if op = 0x08 then decodeN arg .noBacklight
  else if op = 0x09 then decodeN arg .display
  else if op = 0x0A then decodeN arg .noDisplay
  else if op = 0x0B then decodeN arg .leftToRight
  else if op = 0x0C then decodeN arg .rightToLeft
  else .error .noSuchOpcode

/-- The operation a command word selects: the opcode is bits 31:24, the argument bits 23:0 (R50). -/
def decode (w : Word) : Except Illegal Instr :=
  decodeFields (w.extractLsb' 24 8) (w.extractLsb' 0 24)

/-- The instruction the decoder reads from a row of spec/opcode_table.json whose bits are `w`. Every row
has 32 bits and is one word (R55); a command word has no byte order (R50). -/
def decodeTableWord (_nbits w : Nat) : Option Instr :=
  match decode (BitVec.ofNat 32 w) with
  | .ok i => some i
  | .error _ => none

/-! ## Encoding -/

/-- The argument field of an operation, bits 23:0 (R50). -/
def argument : Instr → BitVec 24
  | .init => 0
  | .print cp => cp
  | .setCursor col row => (0x00 : Byte) ++ row ++ col
  | .clear => 0
  | .scrollLeft => 0
  | .scrollRight => 0
  | .backlight => 0
  | .noBacklight => 0
  | .display => 0
  | .noDisplay => 0
  | .leftToRight => 0
  | .rightToLeft => 0

/-- The command word of an operation: `op ++ arg` (R50). -/
def encode (i : Instr) : Word := opcode i ++ argument i

/-- The bits of the word that a format fixes (R53, the `mask` column of the table). -/
def formatMask : Format → Word
  | .n => 0xFFFFFFFF
  | .p => 0xFF000000
  | .c => 0xFFFF0000

/-- The rows of R53: the mask and the match of each of the twelve operations. -/
def tableRows : List (Word × Word) :=
  [ (formatMask .n, 0x01000000), (formatMask .p, 0x02000000), (formatMask .c, 0x03000000),
    (formatMask .n, 0x04000000), (formatMask .n, 0x05000000), (formatMask .n, 0x06000000),
    (formatMask .n, 0x07000000), (formatMask .n, 0x08000000), (formatMask .n, 0x09000000),
    (formatMask .n, 0x0A000000), (formatMask .n, 0x0B000000), (formatMask .n, 0x0C000000) ]

/-! ## Assembler source (R63, R64) -/

namespace Asm

/-- One character's digit value in a base up to 16. -/
def digit (base : Nat) (c : Char) : Option Nat :=
  let v :=
    if '0' ≤ c ∧ c ≤ '9' then some (c.toNat - '0'.toNat)
    else if 'a' ≤ c ∧ c ≤ 'f' then some (c.toNat - 'a'.toNat + 10)
    else if 'A' ≤ c ∧ c ≤ 'F' then some (c.toNat - 'A'.toNat + 10)
    else none
  v.bind fun d => if d < base then some d else none

/-- A run of digits, at least one of them, most significant first. -/
def digits (base : Nat) (cs : List Char) : Option Nat :=
  if cs = [] then none
  else cs.foldl (fun acc c => acc.bind fun n => (digit base c).map fun d => n * base + d) (some 0)

/-- A number: `0x` hexadecimal or decimal (R63). -/
def number : List Char → Option Nat
  | '0' :: 'x' :: cs => digits 16 cs
  | cs => digits 10 cs

/-- The single quote of a character operand. -/
def quote : Char := Char.ofNat 39

/-- The double quote around the text of `PRINT_STR`. -/
def doubleQuote : Char := Char.ofNat 34

/-- The operand of `PRINT`: a number or a character in single quotes (R63). -/
def codePoint (cs : List Char) : Option Nat :=
  match cs with
  | [a, c, b] => if a = quote ∧ b = quote then some c.toNat else number cs
  | _ => number cs

/-- Without leading and trailing spaces. -/
def trim (cs : List Char) : List Char :=
  ((cs.dropWhile (· = ' ')).reverse.dropWhile (· = ' ')).reverse

/-- The mnemonics of the format-N operations (R52). -/
def plainMnemonics : List (List Char × Instr) :=
  [ ("INIT".toList, .init), ("CLEAR".toList, .clear), ("SCROLL_LEFT".toList, .scrollLeft),
    ("SCROLL_RIGHT".toList, .scrollRight), ("BACKLIGHT".toList, .backlight),
    ("NO_BACKLIGHT".toList, .noBacklight), ("DISPLAY".toList, .display),
    ("NO_DISPLAY".toList, .noDisplay), ("LEFT_TO_RIGHT".toList, .leftToRight),
    ("RIGHT_TO_LEFT".toList, .rightToLeft) ]

/-- `PRINT` of a code point that fits the argument field. -/
def printOf (n : Nat) : Option Instr :=
  if codePointFits n then some (.print (BitVec.ofNat 24 n)) else none

/-- `SET_CURSOR` of two numbers that fit their fields. -/
def setCursorOf (col row : Nat) : Option Instr :=
  if cursorOperandFits col && cursorOperandFits row then
    some (.setCursor (BitVec.ofNat 8 col) (BitVec.ofNat 8 row))
  else none

end Asm

/-- The command word of one `PRINT` of a Unicode scalar value (R64). -/
def printWord (c : Char) : Word := encode (.print (BitVec.ofNat 24 c.toNat))

/-- `PRINT_STR`: one `PRINT` word per scalar value of the text, in the order of the text (R64). -/
def printStrWords (text : List Char) : List Word := text.map printWord

/-- The command words of one line of assembler source (R63); the line of a pseudo-operation gives as many
as its text has characters (R64). -/
def assembleLine (line : List Char) : Option (List Word) :=
  let line := Asm.trim line
  let name := line.takeWhile (· ≠ ' ')
  let rest := Asm.trim (line.dropWhile (· ≠ ' '))
  if name = "PRINT".toList then
    ((Asm.codePoint rest).bind Asm.printOf).map fun i => [encode i]
  else if name = "SET_CURSOR".toList then
    let col := Asm.trim (rest.takeWhile (· ≠ ','))
    let row := Asm.trim ((rest.dropWhile (· ≠ ',')).drop 1)
    ((Asm.number col).bind fun c => (Asm.number row).bind fun r => Asm.setCursorOf c r).map
      fun i => [encode i]
  else if name = "PRINT_STR".toList then
    match rest with
    | [] => none
    | q :: text =>
      if q = Asm.doubleQuote ∧ text.getLast? = some Asm.doubleQuote then
        some (printStrWords text.dropLast)
      else none
  else if rest = [] then
    ((Asm.plainMnemonics.find? fun m => m.1 = name).map fun m => [encode m.2])
  else none

end Sys2Proof
end

