-- ==== Sys2Proof/Config.lean ====
section
/-! DEFINITION. What the spec leaves open: the free values, as constants without a body, and the type of
the error policy. The parameters of R4 that have a value stand in Machine/Parameters.lean. -/

namespace Sys2Proof

/-- The transport's answer to one bus write (R30). `fail` stands for every bus-level failure (NACK,
arbitration loss, timeout); the LCDF does not tell them apart. -/
inductive Answer where
  | ok
  | fail
  deriving DecidableEq, Repr, Inhabited

/-- What a transport failure does (R4, `ERR_POLICY`). -/
inductive ErrPolicy where
  /-- Stop the operation at the failing write and report it (R81, D6). -/
  | propagate
  /-- Carry on and report nothing: the alternative of 90_conflicts.md C2, which this hardware does not
  take. -/
  | ignore
  deriving DecidableEq, Repr

namespace Config

/-- `BL_INIT` (R4, D11): `OPEN`, one bit. No value is chosen, so it is a free value: `State.reset` straps
it into `State.blInit`, and a statement about it holds for both values. DESIGN CHOICE 2. -/
opaque blInit : Bool

/-- The answer of the transport to the bus write numbered `n` when the environment's script of answers
(`State.answers`) is used up: an input of which nothing may be assumed (R30). A free value.
DESIGN CHOICE 3. -/
opaque busAnswer : Nat → Answer

/-- What the expander's output register holds before the first bus write: unspecified (R36, R181). A free
value. DESIGN CHOICE 5. -/
opaque xoutAtReset : Byte

/-- What the expander's output register holds after the bus write numbered `n` answered `FAIL`: any value
(R47, D24), so the enable line may be high or low (R94, R157). A free value. DESIGN CHOICE 4. -/
opaque xoutAfterFail : Nat → Byte

end Config

end Sys2Proof
end

