-- ==== Sys2Proof/Machine/Parameters.lean ====
section
/-! DEFINITION. The parameters of R4 at the value this hardware takes, and the constants of R58 to R61:
the controller's command numerals, flag bits and nibbles (all of them general knowledge of the family,
93_implementation_defined.md K3 to K6) and the row-offset table. -/

namespace Sys2Proof.Config

/-! ## R4 -/

/-- `DEV_ADDR`: the expander's 7-bit address in the reference wiring (R15). -/
def devAddr : BitVec 7 := 0x27

/-- `REG_PTR`: the pointer byte sent before every value (R31). -/
def regPtr : Byte := 0x00

/-- `PULSE_WRITES`: expander writes per nibble transmission; 3 here, 2 would be the variant of R93. -/
def pulseWrites : Nat := 3

/-- `ERR_POLICY` (D6). -/
def errPolicy : ErrPolicy := .propagate

/-- `T_PULSE`, microseconds. -/
def tPulse : Nat := 1

/-- `T_SETTLE`, microseconds. -/
def tSettle : Nat := 50

/-- `T_CLEAR`, microseconds. -/
def tClear : Nat := 2000

/-- `T_HOME`, microseconds. -/
def tHome : Nat := 2000

/-- `T_POWER`, microseconds. -/
def tPower : Nat := 40000

/-- `T_INIT12`, microseconds. -/
def tInit12 : Nat := 4500

/-- `T_INIT3`, microseconds (K6). -/
def tInit3 : Nat := 150

/-! ## R58: controller command bytes -/

def cmdClear : Byte := 0x01
def cmdHome : Byte := 0x02
def cmdEntryMode : Byte := 0x04
def cmdDisplayCtrl : Byte := 0x08
def cmdShift : Byte := 0x10
def cmdFunctionSet : Byte := 0x20
def cmdSetDdram : Byte := 0x80

/-- Option bits OR'd into `cmdShift`. -/
def shiftDisplay : Byte := 0x08
def shiftRight : Byte := 0x04
def shiftLeft : Byte := 0x00

/-- Option bits OR'd into `cmdFunctionSet`. -/
def fs8bit : Byte := 0x10
def fs4bit : Byte := 0x00
def fs2line : Byte := 0x08
def fs5x8 : Byte := 0x00

/-! ## R59: flag bits of `DCTL` and `EMODE` -/

def displayOn : Byte := 0x04
def cursorOn : Byte := 0x02
def blinkOn : Byte := 0x01
def entryLeft : Byte := 0x02
def entryShift : Byte := 0x01

/-! ## R60: the two initialisation nibbles -/

/-- `NIB_RESET8`: the high nibble of `CMD_FUNCTION_SET | FS_8BIT`. -/
def nibReset8 : Nibble := (cmdFunctionSet ||| fs8bit).extractLsb' 4 4

/-- `NIB_SET4`: the high nibble of `CMD_FUNCTION_SET | FS_4BIT`. -/
def nibSet4 : Nibble := (cmdFunctionSet ||| fs4bit).extractLsb' 4 4

/-! ## R61: the row-offset table -/

/-- `ROW_OFFSET`: four entries; an index outside 0 to 3 has none. -/
def rowOffset (row : Byte) : Option Byte :=
  if row = 0 then some 0x00
  else if row = 1 then some 0x40
  else if row = 2 then some 0x14
  else if row = 3 then some 0x54
  else none

end Sys2Proof.Config
end

