-- ==== Sys2Proof/Machine/State.lean ====
section
/-! DEFINITION. The state of the LCDF (R10 to R22), the trace it leaves (R7), the ports it is joined to
(D2), and its state after reset (R22). Plain data throughout. -/

namespace Sys2Proof.Machine

/-- One event of the trace (R6, R7). -/
inductive Event where
  /-- `W(a, p, v, r)`: a transport write of the bytes `p`, `v` to device `a`, answered `r` (R30). -/
  | write (dev : BitVec 7) (ptr val : Byte) (answer : Answer)
  /-- `D(t)`: a delay request of `us` microseconds (R39). -/
  | delay (us : Nat)
  deriving DecidableEq, Repr

/-- The response codes that are produced (R65); codes 5 to 7 never are. -/
inductive ResponseCode where
  | ok
  | transportErr
  | operandFault
  | illegalOp
  | notReady
  deriving DecidableEq, Repr

/-- The response of one operation: its code and the two `STATUS` bits as they stand after it (R160). -/
structure Response where
  code : ResponseCode
  ready : Bool
  err : Bool
  deriving DecidableEq, Repr

/-- The expander's register space (R32): (pointer, byte) pairs in the canonical form of `Memory.wf`. -/
abbrev Memory := List Host.Cell

/-- Everything the spec gives the machine. -/
structure State where
  /-- `STATUS.ready` (R14). -/
  ready : Bool
  /-- `STATUS.err` (R14). -/
  err : Bool
  /-- `BL` (R11). -/
  bl : Bool
  /-- `DCTL` (R12); bits 7:3 are hardwired to 0 by every write of it. -/
  dctl : Byte
  /-- `EMODE` (R13); bits 7:2 are hardwired to 0 by every write of it. -/
  emode : Byte
  /-- `DEV_ADDR` (R15): a static strap that no operation writes. -/
  devAddr : BitVec 7
  /-- `BL_INIT` (R4): a static strap that no operation writes. -/
  blInit : Bool
  /-- `opi` (R18): the index of the operation to execute. -/
  opi : Nat
  /-- The words the host presents on the command port, in order (R18, R193). -/
  program : List Word
  /-- The event trace (R7), oldest event first. -/
  trace : List Event
  /-- What the response port gave (R160), oldest response first. -/
  responses : List Response
  /-- The expander's register space behind the bus: location 0 is `xout` (R20(a), R36). -/
  expander : Memory
  /-- What the controller behind the expander latched, oldest first: register-select and nibble of each
  falling edge of the enable line (R20(b), R37). -/
  latches : List (Bool × Nibble)
  /-- How many of `latches` came before the controller last was switched to 4-bit mode: those after them pair
  up into bytes, and an odd number of them means that it waits for a low nibble (R20(b), R37). -/
  pairedFrom : Nat
  /-- The environment's answers to the bus writes to come (R30); once used up, each further answer is the
  free value `Config.busAnswer`. -/
  answers : List Answer
  /-- How many bus writes were made: the model's own counter, which numbers the free values. -/
  draws : Nat
  deriving DecidableEq, Repr

/-- Reasons for the machine to stop. There is none: the spec's four faults (R150) end one operation and
are reported on the response port, after which the LCDF takes the next command word (R156, R158), so each
is a next state; and at the level of the spec every bus write is answered (91_not_in_source.md N29). -/
inductive Fault where
  deriving DecidableEq, Repr

/-- Reasons to give an instruction no meaning. -/
inductive Refusal where
  /-- Raised by an arm of `exec` whose instruction has no meaning yet; no arm is left in that case.
  Safe: nothing can be proved of a machine that was refused. -/
  | notModelled (mnemonic : String)
  deriving DecidableEq, Repr

/-- The LCDF right after its reset is released (R22, R180): not ready, no error, `BL = BL_INIT`, `opi = 0`,
an empty trace and nothing presented. `DCTL` and `EMODE` have no value in the spec and hold 0 here
(DESIGN CHOICE 1); `xout` holds a free value, so the enable line may be high or low (DESIGN CHOICE 5). -/
def State.reset : State where
  ready := false
  err := false
  bl := Config.blInit
  dctl := 0
  emode := 0
  devAddr := Config.devAddr
  blInit := Config.blInit
  opi := 0
  program := []
  trace := []
  responses := []
  expander := [(Config.regPtr.toNat, Config.xoutAtReset)]
  latches := []
  pairedFrom := 0
  answers := []
  draws := 0

end Sys2Proof.Machine
end

