-- ==== Sys2Proof/Machine/Flags.lean ====
section
/-! DEFINITION. The flag registers `DCTL`, `EMODE` (R12, R13) and `STATUS` (R14): the hardwired bits, the
read-modify-writes of R111 to R114, and the codes of the response port (R65). -/

namespace Sys2Proof.Machine

/-- What a write of `v` leaves in `DCTL`: bits 7:3 are hardwired to 0 (R12). -/
def dctlWrite (v : Byte) : Byte := v &&& 0x07

/-- What a write of `v` leaves in `EMODE`: bits 7:2 are hardwired to 0 (R13). -/
def emodeWrite (v : Byte) : Byte := v &&& 0x03

/-- `DCTL | DISPLAY_ON` (R111). -/
def dctlDisplayOn (dctl : Byte) : Byte := dctl ||| Config.displayOn

/-- `DCTL & ~DISPLAY_ON` (R112). -/
def dctlDisplayOff (dctl : Byte) : Byte := dctl &&& ~~~Config.displayOn

/-- `EMODE | ENTRY_LEFT` (R113). -/
def emodeLeft (emode : Byte) : Byte := emode ||| Config.entryLeft

/-- `EMODE & ~ENTRY_LEFT` (R114). -/
def emodeRight (emode : Byte) : Byte := emode &&& ~~~Config.entryLeft

/-- The flags by name: `D`, `C`, `B` of `DCTL` (R12) and `ID`, `S` of `EMODE` (R13). -/
def State.flagD (s : State) : Bool := s.dctl.getLsbD 2
def State.flagC (s : State) : Bool := s.dctl.getLsbD 1
def State.flagB (s : State) : Bool := s.dctl.getLsbD 0
def State.flagID (s : State) : Bool := s.emode.getLsbD 1
def State.flagS (s : State) : Bool := s.emode.getLsbD 0

/-- `STATUS` as two bits, `ready` in bit 0 and `err` in bit 1 (R14). -/
def State.status (s : State) : BitVec 2 := BitVec.ofBool s.err ++ BitVec.ofBool s.ready

/-- The 3-bit code of the response port (R65). -/
def ResponseCode.bits : ResponseCode → BitVec 3
  | .ok => 0
  | .transportErr => 1
  | .operandFault => 2
  | .illegalOp => 3
  | .notReady => 4

end Sys2Proof.Machine
end

