-- ==== Sys2Proof/Machine/Operands.lean ====
section
/-! DEFINITION. Operand forms and the arithmetic of R117: packing, the nibble split, the truncation of a
code point, the cursor sum and its check. -/

namespace Sys2Proof.Machine

/-- One bit of an expander byte. -/
def bit (b : Bool) : BitVec 1 := BitVec.ofBool b

/-- `Pack(n, rs, en, bl) = n ++ bl ++ en ++ 0 ++ rs` (R56, R57); bit 1, `RW`, is always 0. -/
def pack (n : Nibble) (rs en bl : Bool) : Byte := n ++ bit bl ++ bit en ++ (0 : BitVec 1) ++ bit rs

/-- The enable bit of an expander byte (R56). -/
def enMask : Byte := 0x04

/-- `v[7:4]` (R100). -/
def highNibble (v : Byte) : Nibble := v.extractLsb' 4 4

/-- `v[3:0]` (R100). -/
def lowNibble (v : Byte) : Nibble := v.extractLsb' 0 4

/-- The code point truncated to one byte, `cp[7:0]` (R102, D18). -/
def truncateCodePoint (cp : BitVec 24) : Byte := cp.extractLsb' 0 8

/-- `zext_9(col) + zext_9(offset)`: nine bits, so it never wraps (R105, R117(d)). -/
def cursorSum (col offset : Byte) : BitVec 9 := col.setWidth 9 + offset.setWidth 9

/-- The operand check of `SET_CURSOR` (R104): `none` when `row > 3` or, that passed, when the sum is above
`0xFF`; else the low eight bits of the sum. -/
def cursorAddress (col row : Byte) : Option Byte :=
  match Config.rowOffset row with
  | none => none
  | some offset =>
    let sum := cursorSum col offset
    if 0xFF < sum then none else some (sum.setWidth 8)

end Sys2Proof.Machine
end

