-- ==== Sys2Proof/Machine/Ops.lean ====
section
/-! DEFINITION. The operations every meaning is made of: the expander's register space, the bus write and
the delay, the writes of the LCDF's registers, the run of an operation's sequence (R19), the response and
the ONE entry of a fault (R156), the readiness gate, the reset input, and the fetch of a command word. -/

namespace Sys2Proof.Machine

/-! ## The expander's register space (R32, R36) -/

/-- Addresses strictly rising from `lo` on, every one an 8-bit pointer. -/
def Memory.wfFrom (lo : Nat) : Memory → Bool
  | [] => true
  | c :: m => decide (lo ≤ c.1) && decide (c.1 < 256) && Memory.wfFrom (c.1 + 1) m

/-- The canonical form. An unlisted location, which no rule names (R32), has no value (DESIGN CHOICE 5), so
no entry can equal what an unlisted location reads as. -/
def Memory.wf (m : Memory) : Bool := Memory.wfFrom 0 m

/-- What location `a` holds; `none` where nothing is listed. -/
def Memory.read : Memory → Nat → Option Byte
  | [], _ => none
  | c :: m, a => if c.1 = a then some c.2 else Memory.read m a

/-- Store `v` at the location `a`. -/
def Memory.write : Memory → Nat → Byte → Memory
  | [], a, v => [(a, v)]
  | c :: m, a, v =>
    if a < c.1 then (a, v) :: c :: m
    else if a = c.1 then (a, v) :: m
    else c :: Memory.write m a v

/-- The expander's output register `xout` (R36), the one location the LCDF stores to. It is listed from
reset on (`State.MemoryOk`); a state that does not list it gives it the free value of reset. -/
def State.xout (s : State) : Byte :=
  (Memory.read s.expander Config.regPtr.toNat).getD Config.xoutAtReset

/-! ## The controller's latch (R37) -/

/-- The latch events of the values the expander's outputs take one after another (R37): the enable bit falls
from one to the next, delivering the register-select and the nibble before the fall. -/
def latchEvents : List Byte → List (Bool × Nibble)
  | [] => []
  | [_] => []
  | a :: b :: rest =>
    if a.getLsbD 2 && !b.getLsbD 2 then (a.getLsbD 0, highNibble a) :: latchEvents (b :: rest)
    else latchEvents (b :: rest)

/-! ## The transport and the delay collaborator (R30, R39) -/

/-- The transport's answer to the next bus write: the environment's, and a free value once its script is
used up (R30). -/
def State.nextAnswer (s : State) : Answer :=
  match s.answers with
  | a :: _ => a
  | [] => Config.busAnswer s.draws

/-- What the expander's output register takes from a bus write: the value if it succeeded (R36), any value
if it failed (R47). -/
def State.stored (s : State) (v : Byte) : Byte :=
  match s.nextAnswer with
  | .ok => v
  | .fail => Config.xoutAfterFail s.draws

/-- `BusWrite(DEV_ADDR, [REG_PTR, v])` (R30, R31): the event, the store in the expander, one answer taken;
and the controller latches if the enable line falls (R37), after a `FAIL` as the free value of the outputs
has it (R47, R94; DESIGN CHOICE 17). -/
def State.busWrite (s : State) (v : Byte) : State :=
  { s with
    trace := s.trace ++ [.write s.devAddr Config.regPtr v s.nextAnswer]
    expander := Memory.write s.expander Config.regPtr.toNat (s.stored v)
    latches := s.latches ++ latchEvents [s.xout, s.stored v]
    answers := s.answers.tail
    draws := s.draws + 1 }

/-- `Delay(us)` (R39). -/
def State.logDelay (s : State) (us : Nat) : State := { s with trace := s.trace ++ [.delay us] }

/-! ## The registers -/

/-- `STATUS.ready <- b`. -/
def State.setReady (s : State) (b : Bool) : State := { s with ready := b }

/-- `STATUS.err <- b`. -/
def State.setErr (s : State) (b : Bool) : State := { s with err := b }

/-- `BL <- b`. -/
def State.setBl (s : State) (b : Bool) : State := { s with bl := b }

/-- `DCTL <- v`, the hardwired bits staying 0 (R12). -/
def State.setDctl (s : State) (v : Byte) : State := { s with dctl := dctlWrite v }

/-- `EMODE <- v`, the hardwired bits staying 0 (R13). -/
def State.setEmode (s : State) (v : Byte) : State := { s with emode := emodeWrite v }

/-- The controller has taken the 4-bit switch of `INIT`: the latch events from here on pair up into bytes
(R37; log entry 18). Nothing of the LCDF changes. -/
def State.switch4 (s : State) : State := { s with pairedFrom := s.latches.length }

/-! ## The sequence of an operation (R19, R42) -/

/-- One element of an operation's sequence, in the order its pseudocode gives them. -/
inductive Act where
  /-- `XWRITE(v)` (R80). -/
  | xwrite (v : Byte)
  /-- `Delay(us)` (R39). -/
  | delay (us : Nat)
  /-- `STATUS.ready <- b`. -/
  | setReady (b : Bool)
  /-- `STATUS.err <- b`. -/
  | setErr (b : Bool)
  /-- `BL <- b`. -/
  | setBl (b : Bool)
  /-- `DCTL <- v`. -/
  | setDctl (v : Byte)
  /-- `EMODE <- v`. -/
  | setEmode (v : Byte)
  /-- The controller behind the bus is in 4-bit mode from here on (R37). -/
  | switch4
  deriving DecidableEq, Repr

/-- How a sequence ends. -/
inductive Ended where
  /-- Every element was performed. -/
  | completed (s : State)
  /-- A write answered `FAIL`: nothing after it was performed (R81). -/
  | failed (s : State)
  deriving DecidableEq, Repr

/-- The state in which a sequence ended, whichever way. -/
def Ended.state : Ended → State
  | .completed s => s
  | .failed s => s

/-- `XWRITE(v)` before the rest of a sequence (R80, R81, R82): one bus write, never retried; a `FAIL` ends
the sequence at once under the policy this hardware takes (`Config.errPolicy`, D6). -/
def xwriteThen (v : Byte) (s : State) (rest : State → Ended) : Ended :=
  match s.nextAnswer with
  | .ok => rest (s.busWrite v)
  | .fail =>
    match Config.errPolicy with
    | .propagate => .failed (s.busWrite v)
    | .ignore => rest (s.busWrite v)

/-- Perform a sequence strictly in order, each element complete before the next starts (R42). -/
def runScript : List Act → State → Ended
  | [], s => .completed s
  | .xwrite v :: rest, s => xwriteThen v s (runScript rest)
  | .delay us :: rest, s => runScript rest (s.logDelay us)
  | .setReady b :: rest, s => runScript rest (s.setReady b)
  | .setErr b :: rest, s => runScript rest (s.setErr b)
  | .setBl b :: rest, s => runScript rest (s.setBl b)
  | .setDctl v :: rest, s => runScript rest (s.setDctl v)
  | .setEmode v :: rest, s => runScript rest (s.setEmode v)
  | .switch4 :: rest, s => runScript rest s.switch4

/-! ## The end of an operation: response and fault entry (R116, R156, R160) -/

/-- The operation's one response, with `STATUS` as it stands, and `opi <- opi + 1` (R116, R160). -/
def State.respond (s : State) (c : ResponseCode) : State :=
  { s with
    responses := s.responses ++ [{ code := c, ready := s.ready, err := s.err }]
    opi := s.opi + 1 }

/-- Entry of a fault (R150, R156): nothing is saved and nothing changes but `STATUS.err`, set by
`TransportError` only (R151); control goes back to the host with the response. -/
def State.raise (s : State) (c : ResponseCode) : State :=
  match c with
  | .transportErr => (s.setErr true).respond .transportErr
  | c => s.respond c

/-- Perform an operation's sequence and end the operation: `OK`, or the transport fault of its first
failing write. -/
def State.perform (s : State) (script : List Act) : State :=
  match runScript script s with
  | .completed t => t.respond .ok
  | .failed t => t.raise .transportErr

/-- The readiness gate of every operation but `INIT` (R116 stage 2, R154), before the rest of it. -/
def State.whenReady (s : State) (body : State → State) : State :=
  if s.ready then body s else s.raise .notReady

/-! ## The command port and the reset input -/

/-- The command word the host presents now, if any (R18: `program[opi]`). -/
def State.fetch (s : State) : Option Word := s.program[s.opi]?

/-- The LCDF with no word presented: it idles, ready for another (R180, R193). -/
def State.idle (s : State) : State := s

/-- A word that encodes no operation: `ILLEGAL_OP`, no other effect (R153). -/
def State.illegal (s : State) : State := s.raise .illegalOp

/-- The reset input asserted and released (R180, R22) with the display still powered (R181): the LCDF's own
state is that after reset, and the straps, the expander, the controller, the host's words and the transport
are as they were. No operation performs it (DESIGN CHOICE 13). -/
def State.assertReset (s : State) : State :=
  { s with
    ready := false, err := false, bl := s.blInit, dctl := 0, emode := 0
    opi := 0, trace := [], responses := [] }

end Sys2Proof.Machine
end

