-- ==== Sys2Proof/Machine/Framer.lean ====
section
/-! DEFINITION. The two internal primitives above the expander writer: `NIBBLE` (R90) and `FRAME` (R100),
as sequences. Neither has an opcode (R52). -/

namespace Sys2Proof.Machine

/-- `NIBBLE(n, rs)` with the backlight bit `bl` (R90): enable low, enable high, hold, enable low, settle.
The first write is the one that the two-write variant of R93 drops. -/
def nibble (n : Nibble) (rs bl : Bool) : List Act :=
  let b := pack n rs false bl
  (if Config.pulseWrites = 3 then [.xwrite b] else []) ++
  [ .xwrite (b ||| enMask),
    .delay Config.tPulse,
    .xwrite (b &&& ~~~enMask),
    .delay Config.tSettle ]

/-- `FRAME(v, rs)` (R100): the high nibble, then the low nibble, same `rs`, same `BL`. -/
def frame (v : Byte) (rs bl : Bool) : List Act :=
  nibble (highNibble v) rs bl ++ nibble (lowNibble v) rs bl

end Sys2Proof.Machine
end

