-- ==== Sys2Proof/Machine/Backlight.lean ====
section
/-! DEFINITION. `BACKLIGHT` (R109) and `NO_BACKLIGHT` (R110): the register first (R24), then one raw write,
which is no nibble and no frame. -/

namespace Sys2Proof.Machine

/-- `BL <- bl`, then `XWRITE(Pack(0, 0, 0, BL))`: the other seven bits of the byte are 0
(90_conflicts.md C4, D12), and no delay follows (D13). -/
def backlightScript (bl : Bool) : List Act :=
  [.setBl bl, .xwrite (pack 0 false false bl)]

/-- `BACKLIGHT` (R109). -/
def execBacklight (s : State) : Host.Outcome State Fault Refusal :=
  .next (s.whenReady fun s => s.perform (backlightScript true))

/-- `NO_BACKLIGHT` (R110). -/
def execNoBacklight (s : State) : Host.Outcome State Fault Refusal :=
  .next (s.whenReady fun s => s.perform (backlightScript false))

end Sys2Proof.Machine
end

