-- ==== Sys2Proof/Machine/Character.lean ====
section
/-! DEFINITION. Character output: `PRINT` (R102) and the host's loop of `PRINT_STR` (R103). -/

namespace Sys2Proof.Machine

/-- `PRINT cp` once the gate has passed: the truncated code point in data mode (R102). -/
def printBody (cp : BitVec 24) (s : State) : State :=
  s.perform (frame (truncateCodePoint cp) true s.bl)

/-- `PRINT cp` (R102). -/
def execPrint (cp : BitVec 24) (s : State) : Host.Outcome State Fault Refusal :=
  .next (s.whenReady (printBody cp))

/-- The code of the last response given. -/
def State.lastCode (s : State) : Option ResponseCode := s.responses.getLast?.map Response.code

/-- `PRINT_STR text` at the host (R103): one `PRINT` per scalar value, in order, stopping at the first whose
response is not `OK`; the result is `OK` or that response. -/
def printStr : List Char → State → State × ResponseCode
  | [], s => (s, .ok)
  | c :: text, s =>
    let t := s.whenReady (printBody (BitVec.ofNat 24 c.toNat))
    match t.lastCode with
    | some .ok => printStr text t
    | some r => (t, r)
    | none => (t, .ok)

end Sys2Proof.Machine
end

