-- ==== Sys2Proof/Machine/Cursor.lean ====
section
/-! DEFINITION. Cursor positioning: `SET_CURSOR` (R104, R105). -/

namespace Sys2Proof.Machine

/-- `SET_CURSOR col, row` once the gate has passed: the operand check, then the command byte
`CMD_SET_DDRAM | s` (R105). -/
def setCursorBody (col row : Byte) (s : State) : State :=
  match cursorAddress col row with
  | none => s.raise .operandFault
  | some a => s.perform (frame (Config.cmdSetDdram ||| a) false s.bl)

/-- `SET_CURSOR col, row` (R105). -/
def execSetCursor (col row : Byte) (s : State) : Host.Outcome State Fault Refusal :=
  .next (s.whenReady (setCursorBody col row))

end Sys2Proof.Machine
end

