-- ==== Sys2Proof/Machine/ClearScroll.lean ====
section
/-! DEFINITION. `CLEAR` (R106), `SCROLL_LEFT` (R107), `SCROLL_RIGHT` (R108). -/

namespace Sys2Proof.Machine

/-- The body of `CLEAR`: the frame, then the clear-cycle delay inside the operation (R106). -/
def clearScript (bl : Bool) : List Act :=
  frame Config.cmdClear false bl ++ [.delay Config.tClear]

/-- `CLEAR` (R106). -/
def execClear (s : State) : Host.Outcome State Fault Refusal :=
  .next (s.whenReady fun s => s.perform (clearScript s.bl))

/-- `SCROLL_LEFT` (R107). -/
def execScrollLeft (s : State) : Host.Outcome State Fault Refusal :=
  .next (s.whenReady fun s =>
    s.perform (frame (Config.cmdShift ||| Config.shiftDisplay ||| Config.shiftLeft) false s.bl))

/-- `SCROLL_RIGHT` (R108). -/
def execScrollRight (s : State) : Host.Outcome State Fault Refusal :=
  .next (s.whenReady fun s =>
    s.perform (frame (Config.cmdShift ||| Config.shiftDisplay ||| Config.shiftRight) false s.bl))

end Sys2Proof.Machine
end

