-- ==== Sys2Proof/Machine/DisplayControl.lean ====
section
/-! DEFINITION. `DISPLAY` (R111) and `NO_DISPLAY` (R112): read-modify-write of `DCTL` before the frame. -/

namespace Sys2Proof.Machine

/-- `DCTL <- dctl`, then `FRAME(CMD_DISPLAY_CTRL | DCTL, 0)`. -/
def displayScript (dctl : Byte) (bl : Bool) : List Act :=
  .setDctl dctl :: frame (Config.cmdDisplayCtrl ||| dctlWrite dctl) false bl

/-- `DISPLAY` (R111). -/
def execDisplay (s : State) : Host.Outcome State Fault Refusal :=
  .next (s.whenReady fun s => s.perform (displayScript (dctlDisplayOn s.dctl) s.bl))

/-- `NO_DISPLAY` (R112). -/
def execNoDisplay (s : State) : Host.Outcome State Fault Refusal :=
  .next (s.whenReady fun s => s.perform (displayScript (dctlDisplayOff s.dctl) s.bl))

end Sys2Proof.Machine
end

