-- ==== Sys2Proof/Machine/EntryMode.lean ====
section
/-! DEFINITION. `LEFT_TO_RIGHT` (R113) and `RIGHT_TO_LEFT` (R114): read-modify-write of `EMODE` before the
frame. -/

namespace Sys2Proof.Machine

/-- `EMODE <- emode`, then `FRAME(CMD_ENTRY_MODE | EMODE, 0)`. -/
def entryModeScript (emode : Byte) (bl : Bool) : List Act :=
  .setEmode emode :: frame (Config.cmdEntryMode ||| emodeWrite emode) false bl

/-- `LEFT_TO_RIGHT` (R113). -/
def execLeftToRight (s : State) : Host.Outcome State Fault Refusal :=
  .next (s.whenReady fun s => s.perform (entryModeScript (emodeLeft s.emode) s.bl))

/-- `RIGHT_TO_LEFT` (R114). -/
def execRightToLeft (s : State) : Host.Outcome State Fault Refusal :=
  .next (s.whenReady fun s => s.perform (entryModeScript (emodeRight s.emode) s.bl))

end Sys2Proof.Machine
end

