-- ==== Sys2Proof/Machine/Init.lean ====
section
/-! DEFINITION. `INIT`: the power-on initialisation sequence (R130), one definition per step. -/

namespace Sys2Proof.Machine

/-- Step 0, entry (R131). -/
def initEntry (bl : Bool) : List Act := [.setReady false, .setErr false, .setBl bl]

/-- Step 1, power-settle (R132). -/
def initPower : List Act := [.delay Config.tPower]

/-- Step 2, force-8-bit-mode reset, three times (R133). -/
def initReset8 (bl : Bool) : List Act :=
  nibble Config.nibReset8 false bl ++ [.delay Config.tInit12] ++
  nibble Config.nibReset8 false bl ++ [.delay Config.tInit12] ++
  nibble Config.nibReset8 false bl ++ [.delay Config.tInit3]

/-- Step 3, switch to 4-bit mode (R134), after which the controller pairs nibbles up (R37). -/
def initSet4 (bl : Bool) : List Act := nibble Config.nibSet4 false bl ++ [.switch4]

/-- Step 4, function set (R135). -/
def initFunctionSet (bl : Bool) : List Act :=
  frame (Config.cmdFunctionSet ||| Config.fs4bit ||| Config.fs2line ||| Config.fs5x8) false bl

/-- Step 5, display control baseline (R136): `DCTL <- DISPLAY_ON`, then the body of `DISPLAY`. -/
def initDisplay (bl : Bool) : List Act :=
  .setDctl Config.displayOn :: displayScript (dctlDisplayOn (dctlWrite Config.displayOn)) bl

/-- Step 6, clear (R137): the body of `CLEAR`. -/
def initClear (bl : Bool) : List Act := clearScript bl

/-- Step 7, entry mode baseline (R138). -/
def initEntryMode (bl : Bool) : List Act := entryModeScript Config.entryLeft bl

/-- Step 8, return home (R139). -/
def initHome (bl : Bool) : List Act := frame Config.cmdHome false bl ++ [.delay Config.tHome]

/-- The terminal state (R140). -/
def initTerminal : List Act := [.setReady true]

/-- The whole sequence with the backlight bit `bl` (R130). -/
def initScript (bl : Bool) : List Act :=
  initEntry bl ++ initPower ++ initReset8 bl ++ initSet4 bl ++ initFunctionSet bl ++ initDisplay bl ++
  initClear bl ++ initEntryMode bl ++ initHome bl ++ initTerminal

/-- `INIT` (R130): accepted in every state (R143), with `BL <- BL_INIT` at entry. -/
def execInit (s : State) : Host.Outcome State Fault Refusal :=
  .next (s.perform (initScript s.blInit))

end Sys2Proof.Machine
end

