-- ==== Sys2Proof/Machine/Dispatch.lean ====
section
/-! DEFINITION. One arm per operation. -/

namespace Sys2Proof.Machine

def exec (i : Instr) (s : State) : Host.Outcome State Fault Refusal :=
  match i with
  | .init => Sys2Proof.Machine.execInit s
  | .print cp => Sys2Proof.Machine.execPrint cp s
  | .setCursor col row => Sys2Proof.Machine.execSetCursor col row s
  | .clear => Sys2Proof.Machine.execClear s
  | .scrollLeft => Sys2Proof.Machine.execScrollLeft s
  | .scrollRight => Sys2Proof.Machine.execScrollRight s
  | .backlight => Sys2Proof.Machine.execBacklight s
  | .noBacklight => Sys2Proof.Machine.execNoBacklight s
  | .display => Sys2Proof.Machine.execDisplay s
  | .noDisplay => Sys2Proof.Machine.execNoDisplay s
  | .leftToRight => Sys2Proof.Machine.execLeftToRight s
  | .rightToLeft => Sys2Proof.Machine.execRightToLeft s

end Sys2Proof.Machine
end

