-- ==== Sys2Proof/Machine/Step.lean ====
section
/-! DEFINITION. One step: the next operation the host presents, as a whole (R19, R116), or idling. -/

namespace Sys2Proof.Machine

/-- Take the word at `program[opi]`, decode it (R116 stage 1) and run it; an illegal word raises
`ILLEGAL_OP`; with no word presented the LCDF idles (R193). -/
def step (s : State) : Host.Outcome State Fault Refusal :=
  match s.fetch with
  | none => .next s.idle
  | some w =>
    match decode w with
    | .ok i => exec i s
    | .error _ => .next s.illegal

/-- The state in which the host presents the word `w` as the very next one: `program[opi]` is `w`, the words
before and after it as they were (words not yet presented before it are zero). -/
def State.withFetchWord (s : State) (_nbits w : Nat) : State :=
  { s with
    program := s.program.take s.opi ++ List.replicate (s.opi - s.program.length) 0 ++
      BitVec.ofNat 32 w :: s.program.drop (s.opi + 1) }

end Sys2Proof.Machine
end

