-- ==== Sys2Proof/Safety.lean ====
section
/-! DEFINITION. The terms claims are stated in: the transport's answers to come, the reference traces of
R90, R100 and R142, what a trace says of the expander and the controller (R36, R37), how traces are
compared (R7, R40), and the invariants of the machine (R12, R13, R23, R31, R91). -/

namespace Sys2Proof.Machine

/-! ## The transport's answers to come (R30) -/

/-- The answer the bus write after `k` more of them will get. -/
def State.answerAt (s : State) (k : Nat) : Answer :=
  (s.answers[k]?).getD (Config.busAnswer (s.draws + k))

/-- The next `n` bus writes are answered `OK`. -/
def State.AllOk (s : State) (n : Nat) : Prop := ∀ k < n, s.answerAt k = .ok

/-- The bus write after `n` successful ones is answered `FAIL`. -/
def State.FailsAt (s : State) (n : Nat) : Prop := s.AllOk n ∧ s.answerAt n = .fail

/-! ## The successful writes of a trace -/

/-- The value of a successful write. -/
def Event.okValue : Event → Option Byte
  | .write _ _ v .ok => some v
  | .write _ _ _ .fail => none
  | .delay _ => none

/-- The values of the successful writes, in order: `v_0, v_1, ...` of R37. -/
def Trace.okValues (t : List Event) : List Byte := t.filterMap Event.okValue

/-! ## Reference traces, as the rules print them, the delays at the values of R4 (log entries 8 and 10) -/

/-- `W xx` of 42_framer_ops.md: the successful write of `v`. -/
def State.w (s : State) (v : Byte) : Event := .write s.devAddr 0x00 v .ok

/-- The five events of a successful `NIBBLE(n, rs)` (R90). -/
def State.nibbleTrace (s : State) (n : Nibble) (rs bl : Bool) : List Event :=
  let b := pack n rs false bl
  [s.w b, s.w (b ||| 0x04), .delay 1, s.w b, .delay 50]

/-- The ten events of a successful `FRAME(v, rs)` (R100). -/
def State.frameTrace (s : State) (v : Byte) (rs bl : Bool) : List Event :=
  s.nibbleTrace (highNibble v) rs bl ++ s.nibbleTrace (lowNibble v) rs bl

/-- The table of R142: the 42 writes and 34 delays of a successful `INIT`. -/
def State.initTrace (s : State) (bl : Bool) : List Event :=
  [.delay 40000] ++
  s.nibbleTrace 0x3 false bl ++ [.delay 4500] ++
  s.nibbleTrace 0x3 false bl ++ [.delay 4500] ++
  s.nibbleTrace 0x3 false bl ++ [.delay 150] ++
  s.nibbleTrace 0x2 false bl ++
  s.frameTrace 0x28 false bl ++
  s.frameTrace 0x0C false bl ++
  s.frameTrace 0x01 false bl ++ [.delay 2000] ++
  s.frameTrace 0x06 false bl ++
  s.frameTrace 0x02 false bl ++ [.delay 2000]

/-- The operation in hand has ended `OK`, having made `n` writes, the last of them of `last`, and left
`events`; the controller latched as the enable line fell (R7, R36, R37, R42, R116, R160). -/
def State.endedOk (s : State) (events : List Event) (n : Nat) (last : Byte) : State :=
  { s with
    trace := s.trace ++ events
    expander := Memory.write s.expander 0 last
    latches := s.latches ++ latchEvents (s.xout :: Trace.okValues events)
    answers := s.answers.drop n
    draws := s.draws + n
    responses := s.responses ++ [{ code := .ok, ready := s.ready, err := s.err }]
    opi := s.opi + 1 }

/-- The operation in hand was turned away with the code `c`: no event, no change of a register (R152 to
R154). -/
def State.turnedAway (s : State) (c : ResponseCode) : State :=
  { s with
    responses := s.responses ++ [{ code := c, ready := s.ready, err := s.err }]
    opi := s.opi + 1 }

/-- The same machine with another script of the transport's answers. -/
def State.withAnswers (s : State) (answers : List Answer) : State := { s with answers := answers }

/-- The same machine with other contents of `DCTL` and `EMODE`. -/
def State.withFlags (s : State) (dctl emode : Byte) : State := { s with dctl := dctl, emode := emode }

/-- The events an operation that led from `s` to `t` added to the trace. -/
def State.newEvents (s t : State) : List Event := t.trace.drop s.trace.length

/-! ## The table of R115, and what each operation delivers -/

/-- The operation passes the gate and the operand check (R116 stages 2 and 3). -/
def State.Accepts (s : State) (i : Instr) : Prop :=
  (i = .init ∨ s.ready = true) ∧ ∀ col row, i = .setCursor col row → cursorAddress col row ≠ none

/-- The bus writes of an operation none of whose writes fails (R115). -/
def busWrites : Instr → Nat
  | .init => 42
  | .print _ => 6
  | .setCursor _ _ => 6
  | .clear => 6
  | .scrollLeft => 6
  | .scrollRight => 6
  | .backlight => 1
  | .noBacklight => 1
  | .display => 6
  | .noDisplay => 6
  | .leftToRight => 6
  | .rightToLeft => 6

/-- Its delay requests (R115). -/
def delayRequests : Instr → Nat
  | .init => 34
  | .print _ => 4
  | .setCursor _ _ => 4
  | .clear => 5
  | .scrollLeft => 4
  | .scrollRight => 4
  | .backlight => 0
  | .noBacklight => 0
  | .display => 4
  | .noDisplay => 4
  | .leftToRight => 4
  | .rightToLeft => 4

/-- The lower bound on the sum of its delays, microseconds (R192). -/
def delayBound : Instr → Nat
  | .init => 53864
  | .print _ => 102
  | .setCursor _ _ => 102
  | .clear => 2102
  | .scrollLeft => 102
  | .scrollRight => 102
  | .backlight => 0
  | .noBacklight => 0
  | .display => 102
  | .noDisplay => 102
  | .leftToRight => 102
  | .rightToLeft => 102

/-- Its latch events (R115). -/
def latchCount : Instr → Nat
  | .init => 14
  | .print _ => 2
  | .setCursor _ _ => 2
  | .clear => 2
  | .scrollLeft => 2
  | .scrollRight => 2
  | .backlight => 0
  | .noBacklight => 0
  | .display => 2
  | .noDisplay => 2
  | .leftToRight => 2
  | .rightToLeft => 2

/-- The bytes an operation delivers to a controller in 4-bit mode, each with its register-select (R102, R105
to R114); the five command bytes of `INIT` are those after its four lone nibbles (R135 to R139). -/
def delivered : Instr → State → List (Bool × Byte)
  | .init, _ => [(false, 0x28), (false, 0x0C), (false, 0x01), (false, 0x06), (false, 0x02)]
  | .print cp, _ => [(true, cp.setWidth 8)]
  | .setCursor col row, _ =>
    match Config.rowOffset row with
    | some offset => [(false, 0x80 ||| (col + offset))]
    | none => []
  | .clear, _ => [(false, 0x01)]
  | .scrollLeft, _ => [(false, 0x18)]
  | .scrollRight, _ => [(false, 0x1C)]
  | .backlight, _ => []
  | .noBacklight, _ => []
  | .display, s => [(false, 0x08 ||| ((s.dctl ||| 0x04) &&& 0x07))]
  | .noDisplay, s => [(false, 0x08 ||| (s.dctl &&& 0xFB &&& 0x07))]
  | .leftToRight, s => [(false, 0x04 ||| ((s.emode ||| 0x02) &&& 0x03))]
  | .rightToLeft, s => [(false, 0x04 ||| (s.emode &&& 0xFD &&& 0x03))]

/-! ## What a trace says -/

/-- The value of a write, whatever its answer. -/
def Event.value : Event → Option Byte
  | .write _ _ v _ => some v
  | .delay _ => none

/-- The event with its answer made `OK`. -/
def Event.answeredOk : Event → Event
  | .write d p v _ => .write d p v .ok
  | .delay us => .delay us

/-- `Latched(trace)` as R37 defines it, over the `OK` writes alone. What the controller latched, the outputs
after a `FAIL` and before the first write included, is `State.latches`. -/
def Trace.latched (t : List Event) : List (Bool × Nibble) := latchEvents (Trace.okValues t)

/-- Latch events of a controller in 4-bit mode paired into bytes (R37), as long as both halves of a pair
have one register-select; the rest, of which R37 says nothing, is left out. -/
def Trace.pairUp : List (Bool × Nibble) → List (Bool × Byte)
  | (rs, hi) :: (rs', lo) :: rest =>
    if rs = rs' then (rs, hi ++ lo) :: Trace.pairUp rest else []
  | _ => []

/-- The nibble the controller last latched (R20(b)). -/
def State.lastLatch (s : State) : Option (Bool × Nibble) := s.latches.getLast?

/-- What a first write with its enable bit 0 makes the controller latch before anything of its own: a nibble
no one sent if the enable line was left high (R94), nothing if it was low. -/
def State.strayLatch (s : State) : List (Bool × Nibble) :=
  if s.xout.getLsbD 2 then [(s.xout.getLsbD 0, highNibble s.xout)] else []

/-- Whether a controller in 4-bit mode that latched these nibbles waits for a low one (R20(b)). -/
def Trace.awaitsLow (latches : List (Bool × Nibble)) : Bool := latches.length % 2 == 1

/-- What the controller latched since it was switched to 4-bit mode (R37). -/
def State.sinceSwitch (s : State) : List (Bool × Nibble) := s.latches.drop s.pairedFrom

/-- The bytes the controller received since it was switched to 4-bit mode, each with its register-select (R37).
What it says is the controller's only while `State.trustworthy` (R188). -/
def State.received (s : State) : List (Bool × Byte) := Trace.pairUp s.sinceSwitch

/-- Whether the controller waits for a low nibble (R20(b)). -/
def State.awaitsLow (s : State) : Bool := Trace.awaitsLow s.sinceSwitch

/-- How many bus writes a trace holds (R83). -/
def Trace.writeCount (t : List Event) : Nat := (t.filterMap Event.value).length

/-- How many delay requests a trace holds. -/
def Trace.delayCount : List Event → Nat
  | [] => 0
  | .delay _ :: t => Trace.delayCount t + 1
  | .write _ _ _ _ :: t => Trace.delayCount t

/-- The sum of a trace's delays, microseconds (R192). -/
def Trace.delayTotal : List Event → Nat
  | [] => 0
  | .delay us :: t => us + Trace.delayTotal t
  | .write _ _ _ _ :: t => Trace.delayTotal t

/-! ## How traces are compared (R7, R40) -/

/-- Add to the first of the sums. -/
def addToHead (us : Nat) : List Nat → List Nat
  | [] => [us]
  | n :: ns => (us + n) :: ns

/-- The sum of the delays at each place: before the first write, between two consecutive writes, and after
the last one. -/
def Trace.delayPlaces : List Event → List Nat
  | [] => [0]
  | .delay us :: t => addToHead us (Trace.delayPlaces t)
  | .write _ _ _ _ :: t => 0 :: Trace.delayPlaces t

/-- The writes of a trace, in order. -/
def Trace.writes : List Event → List Event
  | [] => []
  | .delay _ :: t => Trace.writes t
  | .write d p v r :: t => .write d p v r :: Trace.writes t

/-- Every sum is at least the one required at its place. -/
def atLeast : List Nat → List Nat → Bool
  | [], [] => true
  | a :: as, b :: bs => decide (a ≤ b) && atLeast as bs
  | _, _ => false

/-- A trace conforms to a reference trace (R7, R40): the same writes in the same order, and at each place at
least the delay required there. -/
def Trace.conforms (reference actual : List Event) : Bool :=
  decide (Trace.writes actual = Trace.writes reference) &&
    atLeast (Trace.delayPlaces reference) (Trace.delayPlaces actual)

/-! ## Timing hazards the LCDF itself respects (R185, R186) -/

/-- After every successful enable-high write stand a delay of at least `T_PULSE`, 1 microsecond, and then the enable-low
write of the same byte, with nothing between them (R185). -/
def Trace.pulsesHeld : List Event → Bool
  | [] => true
  | .write _ _ v .ok :: t =>
    (!v.getLsbD 2 ||
      (match t with
       | .delay us :: .write _ _ v' _ :: _ =>
         decide (1 ≤ us) && decide (v' = v &&& ~~~(0x04 : Byte))
       | _ => false)) && Trace.pulsesHeld t
  | .write _ _ _ .fail :: t => Trace.pulsesHeld t
  | .delay _ :: t => Trace.pulsesHeld t

/-- With `high` the enable bit of the last successful write: after every successful enable-low write that
follows an enable-high one (a falling edge) the next event is a delay of at least `T_SETTLE`, 50 microseconds (R186). -/
def Trace.settledFrom (high : Bool) : List Event → Bool
  | [] => true
  | .write _ _ v .ok :: t =>
    (!(high && !v.getLsbD 2) ||
      (match t with
       | .delay us :: _ => decide (50 ≤ us)
       | _ => false)) && Trace.settledFrom (v.getLsbD 2) t
  | .write _ _ _ .fail :: t => Trace.settledFrom high t
  | .delay _ :: t => Trace.settledFrom high t

/-! ## Invariants -/

/-- The hardwired bits of `DCTL` and `EMODE` are 0 (R12, R13), and whenever `STATUS.ready = 1` they hold one
of their two legal values (R23). -/
def State.RegistersLegal (s : State) : Prop :=
  s.dctl &&& 0xF8 = 0 ∧ s.emode &&& 0xFC = 0 ∧
  (s.ready = true → (s.dctl = 0x04 ∨ s.dctl = 0x00) ∧ (s.emode = 0x02 ∨ s.emode = 0x00))

/-- A write is addressed to `dev` with the pointer byte `0x00` and has the `RW` bit 0 (R31, R56). -/
def Event.disciplined (dev : BitVec 7) : Event → Bool
  | .write d p v _ => decide (d = dev) && decide (p = 0x00) && !v.getLsbD 1
  | .delay _ => true

/-- Every write of the trace is to the configured expander's output register, with `RW = 0`. -/
def State.BusDisciplined (s : State) : Prop := ∀ e ∈ s.trace, e.disciplined s.devAddr = true

/-- While `STATUS.err = 0`, the last bus write of the trace, if any, succeeded and left the enable line low
(R91, R157). -/
def State.LinesIdle (s : State) : Prop :=
  s.err = false →
    ∀ e, (Trace.writes s.trace).getLast? = some e → ∃ v, e.okValue = some v ∧ v.getLsbD 2 = false

/-- The expander's register space is canonical and lists the output register (R36). -/
def State.MemoryOk (s : State) : Prop :=
  Memory.wf s.expander = true ∧ Memory.read s.expander 0 ≠ none

/-- One response for every operation counted (R18, R160). -/
def State.Answered (s : State) : Prop := s.responses.length = s.opi

/-- What the controller received can be told (R188): initialised, and no failed write since the start of the
last `INIT`. -/
def State.trustworthy (s : State) : Bool := s.ready && !s.err

/-- While what the controller received can be told, the enable line is low (R91, R157, R188). -/
def State.TrustedLineLow (s : State) : Prop := s.trustworthy = true → s.xout.getLsbD 2 = false

/-- While what the controller received can be told, the nibbles it latched since the 4-bit switch are whole
bytes: it waits for a high nibble, and both halves of each pair have one register-select (R35, R37, R188). -/
def State.TrustedInPhase (s : State) : Prop :=
  s.trustworthy = true →
    s.pairedFrom ≤ s.latches.length ∧ s.sinceSwitch.length = 2 * s.received.length

end Sys2Proof.Machine
end

