-- ==== Sys2Proof/Certificates/Slice0/Obligations.lean ====
section
/-! DEFINITION. What is claimed of the model, from the numbered rules of spec/, for the provers. -/

open Sys2Proof Sys2Proof.Machine

/-! ## Encoding -/

/-- Words of 95_test_vectors.md 2.1 decode as that table says (R52 to R54, R63). -/
def Obligations.TableWordsDecode : Prop :=
  decode 0x01000000 = .ok .init ∧
  decode 0x02000048 = .ok (.print 0x48) ∧
  decode 0x02FFFFFF = .ok (.print 0xFFFFFF) ∧
  decode 0x03000103 = .ok (.setCursor 3 1) ∧
  decode 0x04000000 = .ok .clear ∧
  decode 0x06000000 = .ok .scrollRight ∧
  decode 0x08000000 = .ok .noBacklight ∧
  decode 0x0A000000 = .ok .noDisplay ∧
  decode 0x0C000000 = .ok .rightToLeft ∧
  decode 0x00000000 = .error .noSuchOpcode ∧
  decode 0x0D000000 = .error .noSuchOpcode ∧
  decode 0xFF000000 = .error .noSuchOpcode ∧
  decode 0x04000001 = .error .argumentNotZero ∧
  decode 0x01800000 = .error .argumentNotZero ∧
  decode 0x03010000 = .error .cursorFieldNotZero

/-- Decoding the word of any operation gives that operation, every operand at every value (R50 to R53). -/
def Obligations.DecodeOfEncode : Prop :=
  ∀ i : Instr, decode (encode i) = .ok i

/-- Each legal word has one meaning: encoding what was decoded gives the word again (R50 to R53). -/
def Obligations.EncodeOfDecode : Prop :=
  ∀ (w : Word) (i : Instr), decode w = .ok i → encode i = w

/-- A word is legal exactly when it matches a row of the table under the row's mask (R53, R54). -/
def Obligations.DecodeAcceptsExactlyTableRows : Prop :=
  ∀ w : Word, (∃ i, decode w = .ok i) ↔ ∃ r ∈ tableRows, w &&& r.1 = r.2

/-- `PRINT_STR` expands to one `PRINT` word per scalar value of the text, in order (R64). -/
def Obligations.PrintStrExpandsToPrints : Prop :=
  ∀ text : List Char,
    (printStrWords text).map decode =
      text.map fun c => Except.ok (Instr.print (BitVec.ofNat 24 c.toNat))

/-! ## Steps -/

/-- When the word presented at `program[opi]` decodes to an operation, the step is that operation (R18,
R116). -/
def Obligations.StepRunsDecodedOperation : Prop :=
  ∀ (s : State) (w : Word) (i : Instr),
    s.program[s.opi]? = some w → decode w = .ok i → step s = exec i s

/-- A word placed for the next fetch is the word the next step runs, and placing it changes the host's words
only (R18). -/
def Obligations.PlacedWordRunsNext : Prop :=
  ∀ (s : State) (n w : Nat) (i : Instr), decode (BitVec.ofNat 32 w) = .ok i →
    step (s.withFetchWord n w) = exec i (s.withFetchWord n w) ∧
    { s.withFetchWord n w with program := s.program } = s

/-- An illegal word, ready or not, has no effect but the response `ILLEGAL_OP`, code 3, and `opi + 1` (R153,
R155). -/
def Obligations.IllegalWordTurnedAway : Prop :=
  ResponseCode.illegalOp.bits = 3 ∧
  ∀ (s : State) (w : Word) (e : Illegal),
    s.program[s.opi]? = some w → decode w = .error e → step s = .next (s.turnedAway .illegalOp)

/-- After the last word presented the LCDF idles (R193). -/
def Obligations.IdlesAtEndOfProgram : Prop :=
  ∀ s : State, s.program.length ≤ s.opi → step s = .next s

/-- Every operation but `INIT` is turned away with `NOT_READY`, code 4, and no other effect while
`STATUS.ready = 0` (R154). -/
def Obligations.NotReadyTurnedAway : Prop :=
  ResponseCode.notReady.bits = 4 ∧
  ∀ (i : Instr) (s : State), i ≠ .init → s.ready = false →
    exec i s = .next (s.turnedAway .notReady)

/-- `SET_CURSOR` with a row above 3, or with a sum above `0xFF`, is turned away with `OPERAND_FAULT`, code 2,
and no other effect (R65, R104, R152). -/
def Obligations.SetCursorOperandFault : Prop :=
  ResponseCode.operandFault.bits = 2 ∧
  ∀ (col row : Byte) (s : State), s.ready = true →
    (3 < row.toNat ∨
      ∃ offset, Config.rowOffset row = some offset ∧ 0xFF < col.toNat + offset.toNat) →
    exec (.setCursor col row) s = .next (s.turnedAway .operandFault)

/-- The one response of a presented word follows the order of the checks: `ILLEGAL_OP`, `NOT_READY`,
`OPERAND_FAULT`, and `TRANSPORT_ERR` only if a write was made and failed (R155). -/
def Obligations.ChecksInOrder : Prop :=
  ∀ (s : State) (w : Word), s.program[s.opi]? = some w →
    ∃ t r, step s = .next t ∧ t.responses = s.responses ++ [r] ∧
      (r.code = .illegalOp ↔ ∃ e, decode w = .error e) ∧
      (r.code = .notReady ↔ ∃ i, decode w = .ok i ∧ i ≠ .init ∧ s.ready = false) ∧
      (r.code = .operandFault ↔
        s.ready = true ∧ ∃ col row, decode w = .ok (.setCursor col row) ∧
          cursorAddress col row = none) ∧
      (r.code = .transportErr ↔ ∃ e ∈ s.newEvents t, e.answeredOk ≠ e)

/-! ## The operations complete -/

/-- `PRINT cp` frames the low byte of the code point in data mode (R102): the ten events of the frame, every
register as it was, response `OK`. -/
def Obligations.PrintCompletes : Prop :=
  ∀ (cp : BitVec 24) (s : State), s.ready = true → s.AllOk 6 →
    exec (.print cp) s =
      .next (s.endedOk (s.frameTrace (cp.setWidth 8) true s.bl) 6
        (pack (lowNibble (cp.setWidth 8)) true false s.bl))

/-- `SET_CURSOR col, row` with `row` in 0 to 3 and a sum that fits a byte frames `0x80 | (col + offset)` in
command mode (R105). The numeral `0x80` is the spec's from general knowledge (log entry 8). -/
def Obligations.SetCursorCompletes : Prop :=
  ∀ (col row offset : Byte) (s : State), s.ready = true → s.AllOk 6 →
    Config.rowOffset row = some offset → col.toNat + offset.toNat ≤ 0xFF →
    exec (.setCursor col row) s =
      .next (s.endedOk (s.frameTrace (0x80 ||| (col + offset)) false s.bl) 6
        (pack (lowNibble (0x80 ||| (col + offset))) false false s.bl))

/-- `CLEAR` frames `0x01` and waits `T_CLEAR` inside the operation (R106). Numeral: log entry 8. -/
def Obligations.ClearCompletes : Prop :=
  ∀ s : State, s.ready = true → s.AllOk 6 →
    exec .clear s =
      .next (s.endedOk (s.frameTrace 0x01 false s.bl ++ [.delay 2000]) 6 (pack 0x1 false false s.bl))

/-- `SCROLL_LEFT` frames `0x18` and `SCROLL_RIGHT` frames `0x1C` (R107, R108). Numerals: log entry 8. -/
def Obligations.ScrollsComplete : Prop :=
  ∀ s : State, s.ready = true → s.AllOk 6 →
    exec .scrollLeft s =
      .next (s.endedOk (s.frameTrace 0x18 false s.bl) 6 (pack 0x8 false false s.bl)) ∧
    exec .scrollRight s =
      .next (s.endedOk (s.frameTrace 0x1C false s.bl) 6 (pack 0xC false false s.bl))

/-- `BACKLIGHT` sets `BL` and makes the one write `0x08`; `NO_BACKLIGHT` clears it and writes `0x00`; no
delay (R109, R110). That the other seven bits are 0 is the spec's choice C4 (log entry 9). -/
def Obligations.BacklightsComplete : Prop :=
  ∀ s : State, s.ready = true → s.AllOk 1 →
    exec .backlight s =
      .next ({ s with bl := true }.endedOk [s.w 0x08] 1 0x08) ∧
    exec .noBacklight s =
      .next ({ s with bl := false }.endedOk [s.w 0x00] 1 0x00)

/-- `DISPLAY` sets and `NO_DISPLAY` clears bit 2 of `DCTL`, then each frames `0x08 | DCTL` (R111, R112).
Numerals: log entry 8. -/
def Obligations.DisplaysComplete : Prop :=
  ∀ s : State, s.ready = true → s.AllOk 6 →
    (let d := (s.dctl ||| 0x04) &&& 0x07
     exec .display s =
       .next ({ s with dctl := d }.endedOk (s.frameTrace (0x08 ||| d) false s.bl) 6
         (pack (lowNibble (0x08 ||| d)) false false s.bl))) ∧
    (let d := s.dctl &&& 0xFB &&& 0x07
     exec .noDisplay s =
       .next ({ s with dctl := d }.endedOk (s.frameTrace (0x08 ||| d) false s.bl) 6
         (pack (lowNibble (0x08 ||| d)) false false s.bl)))

/-- `LEFT_TO_RIGHT` sets and `RIGHT_TO_LEFT` clears bit 1 of `EMODE`, then each frames `0x04 | EMODE` (R113,
R114). Numerals: log entry 8. -/
def Obligations.DirectionsComplete : Prop :=
  ∀ s : State, s.ready = true → s.AllOk 6 →
    (let e := (s.emode ||| 0x02) &&& 0x03
     exec .leftToRight s =
       .next ({ s with emode := e }.endedOk (s.frameTrace (0x04 ||| e) false s.bl) 6
         (pack (lowNibble (0x04 ||| e)) false false s.bl))) ∧
    (let e := s.emode &&& 0xFD &&& 0x03
     exec .rightToLeft s =
       .next ({ s with emode := e }.endedOk (s.frameTrace (0x04 ||| e) false s.bl) 6
         (pack (lowNibble (0x04 ||| e)) false false s.bl)))

/-- `INIT`, in any state of `STATUS`, performs the whole table of R142 with `BL = BL_INIT` and leaves
`ready = 1`, `err = 0`, `DCTL = 0x04`, `EMODE = 0x02` (R130 to R140, R143). Numerals and
the delay of 150: log entry 8; the delays are the reference values of R4: log entry 10. The controller
pairs nibbles up from the switch after the fourth lone nibble on (R37; log entries 17 and 18). -/
def Obligations.InitCompletes : Prop :=
  ∀ s : State, s.AllOk 42 →
    exec .init s =
      .next ({ s with
        ready := true, err := false, bl := s.blInit, dctl := 0x04, emode := 0x02
        pairedFrom := s.latches.length + s.strayLatch.length + 4 }.endedOk
          (s.initTrace s.blInit) 42 (pack 0x2 false false s.blInit))

/-- The events, delays and latch events of every operation none of whose writes fails are those of the table
of R115, its delays sum to the bound of R192, and its response is `OK`, code 0 (R65). -/
def Obligations.OperationCosts : Prop :=
  ResponseCode.ok.bits = 0 ∧
  ∀ (i : Instr) (s : State), s.Accepts i → s.AllOk (busWrites i) →
    ∃ t, exec i s = .next t ∧ t.lastCode = some .ok ∧
      Trace.writeCount (s.newEvents t) = busWrites i ∧
      Trace.delayCount (s.newEvents t) = delayRequests i ∧
      Trace.delayTotal (s.newEvents t) = delayBound i ∧
      (Trace.latched (s.newEvents t)).length = latchCount i

/-! ## What an operation leaves unchanged -/

/-- Every operation leaves the straps, the host's words and every location of the expander but `0x00` as
they were, only adds to the trace and to what the controller latched, moves the place where the pairing of
nibbles starts in `INIT` only, gives one response and counts itself (R15, R18, R20, R32, R37, R42, R160). -/
def Obligations.OperationFrame : Prop :=
  ∀ (i : Instr) (s t : State), exec i s = .next t →
    t.devAddr = s.devAddr ∧ t.blInit = s.blInit ∧ t.program = s.program ∧ t.opi = s.opi + 1 ∧
    (∃ events, t.trace = s.trace ++ events) ∧
    (∃ latches, t.latches = s.latches ++ latches) ∧ (i ≠ .init → t.pairedFrom = s.pairedFrom) ∧
    (∃ r, t.responses = s.responses ++ [r] ∧ r.ready = t.ready ∧ r.err = t.err) ∧
    ∀ a, a ≠ Config.regPtr.toNat → Memory.read t.expander a = Memory.read s.expander a

/-- Each register is written only by the operations listed as its writers (R11 to R14, R16, R17): `ready` by
`INIT`; `err` cleared by `INIT`; `BL`, `DCTL`, `EMODE` by theirs. -/
def Obligations.RegisterWriters : Prop :=
  ∀ (i : Instr) (s t : State), exec i s = .next t →
    (i ≠ .init → t.ready = s.ready ∧ (s.err = true → t.err = true)) ∧
    (i ≠ .init → i ≠ .backlight → i ≠ .noBacklight → t.bl = s.bl) ∧
    (i ≠ .init → i ≠ .display → i ≠ .noDisplay → t.dctl = s.dctl) ∧
    (i ≠ .init → i ≠ .leftToRight → i ≠ .rightToLeft → t.emode = s.emode)

/-- The display operations leave the cursor and blink bits, and the direction operations the shift bit, as
they were, whatever the transport answers (R12, R13, R17). -/
def Obligations.OtherFlagsUntouched : Prop :=
  ∀ (i : Instr) (s t : State), exec i s = .next t →
    (i = .display ∨ i = .noDisplay → t.flagC = s.flagC ∧ t.flagB = s.flagB) ∧
    (i = .leftToRight ∨ i = .rightToLeft → t.flagS = s.flagS)

/-- `STATUS` after an operation (R14, R151): `err` is 1 exactly if a write of the operation failed, or it was
1 and the operation is not `INIT`; `ready` is 1 exactly after an `INIT` without a failed write, or if it was 1
and the operation is not `INIT`; `ready` is bit 0 of the register and `err` is bit 1. -/
def Obligations.StatusAfterOperation : Prop :=
  ∀ (i : Instr) (s t : State), exec i s = .next t →
    (t.err = true ↔ (∃ e ∈ s.newEvents t, e.answeredOk ≠ e) ∨ (i ≠ .init ∧ s.err = true)) ∧
    (t.ready = true ↔
      (i = .init ∧ ¬ ∃ e ∈ s.newEvents t, e.answeredOk ≠ e) ∨ (i ≠ .init ∧ s.ready = true)) ∧
    t.status.getLsbD 0 = t.ready ∧ t.status.getLsbD 1 = t.err

/-! ## Transport failures -/

/-- An accepted operation whose write after `k` successful ones answers `FAIL` ends there with
`TRANSPORT_ERR`, code 1, and `err = 1`; `ready` stays, 0 for `INIT` (R65, R151, R141). -/
def Obligations.TransportFaultEndsOperation : Prop :=
  ResponseCode.transportErr.bits = 1 ∧
  ∀ (i : Instr) (s : State) (k : Nat), s.Accepts i → k < busWrites i → s.FailsAt k →
    ∃ t, exec i s = .next t ∧ t.lastCode = some .transportErr ∧ t.err = true ∧
      t.ready = (if i = .init then false else s.ready) ∧
      Trace.writeCount (s.newEvents t) = k + 1 ∧
      ∃ v, (s.newEvents t).getLast? = some (.write s.devAddr 0x00 v .fail)

/-- Faults are precise (R156): answers put aside, the events of an operation are a prefix of those it leaves
when nothing fails; no event but the last is a failed write; and it is one exactly with `TRANSPORT_ERR`, all
events being there otherwise. -/
def Obligations.FaultsArePrecise : Prop :=
  ∀ (i : Instr) (s t u : State), exec i s = .next t →
    exec i (s.withAnswers (List.replicate 42 .ok)) = .next u →
    (s.newEvents t).map Event.answeredOk <+: s.newEvents u ∧
    (∀ e ∈ (s.newEvents t).dropLast, e.answeredOk = e) ∧
    ((t.lastCode = some .transportErr ∧
        ∃ d p v, (s.newEvents t).getLast? = some (.write d p v .fail)) ∨
      (t.lastCode ≠ some .transportErr ∧ s.newEvents t = s.newEvents u))

/-- Session state is never rolled back (R24): whatever the transport answers, `BL`, `DCTL` and `EMODE` after
an operation other than `INIT` are what they are when nothing fails; and an `INIT` that fails after it wrote
one of them keeps the new value: `BL` at once, `DCTL` with the 18 writes of steps 2 to 4 made, `EMODE` with the
30 of steps 2 to 6 made. -/
def Obligations.SessionNeverRolledBack : Prop :=
  (∀ (i : Instr) (s t u : State), i ≠ .init → exec i s = .next t →
    exec i (s.withAnswers (List.replicate 42 .ok)) = .next u →
    t.bl = u.bl ∧ t.dctl = u.dctl ∧ t.emode = u.emode) ∧
  (∀ (s : State) (k : Nat), k < 42 → s.FailsAt k → ∃ t, exec .init s = .next t ∧
    t.bl = s.blInit ∧ (18 ≤ k → t.dctl = Config.displayOn) ∧ (30 ≤ k → t.emode = Config.entryLeft))

/-- A failed `INIT` (R141): not ready, `err = 1`, `BL = BL_INIT`; `DCTL` is as before unless step 5 was
reached, `EMODE` unless step 7 was. -/
def Obligations.FailedInit : Prop :=
  ∀ (s : State) (k : Nat), k < 42 → s.FailsAt k →
    ∃ t, exec .init s = .next t ∧ t.lastCode = some .transportErr ∧
      t.ready = false ∧ t.err = true ∧ t.bl = s.blInit ∧
      t.dctl = (if k < 18 then s.dctl else 0x04) ∧
      t.emode = (if k < 30 then s.emode else 0x02)

/-! ## Invariants -/

/-- Every step keeps the hardwired bits of `DCTL` and `EMODE` at 0 and, while ready, the two registers at a
legal value (R12, R13, R23). -/
def Obligations.StepKeepsRegistersLegal : Prop :=
  ∀ s t : State, s.RegistersLegal → step s = .next t → t.RegistersLegal

/-- Every step keeps every write of the trace addressed to `DEV_ADDR`, pointer `0x00`, `RW = 0` (R31, R33,
R56). -/
def Obligations.StepKeepsBusDisciplined : Prop :=
  ∀ s t : State, s.BusDisciplined → step s = .next t → t.BusDisciplined

/-- Every step keeps: while `STATUS.err = 0` the last write succeeded and left the enable line low (R91,
R157). -/
def Obligations.StepKeepsLinesIdle : Prop :=
  ∀ s t : State, s.LinesIdle → step s = .next t → t.LinesIdle

/-- Every step keeps one response for every operation counted (R18, R160). -/
def Obligations.StepKeepsAnswered : Prop :=
  ∀ s t : State, s.Answered → step s = .next t → t.Answered

/-- Every step keeps the canonical form of the expander's register space, and its output register listed
(R36). -/
def Obligations.StepKeepsMemoryCanonical : Prop :=
  ∀ s t : State, s.MemoryOk → step s = .next t → t.MemoryOk

/-- Every step keeps: while the LCDF is initialised and no write has failed since the start of the last `INIT`,
the enable line is low, on the expander's outputs and not only in the trace (R91, R157, R188). -/
def Obligations.StepKeepsTrustedLineLow : Prop :=
  ∀ s t : State, s.TrustedLineLow → step s = .next t → t.TrustedLineLow

/-- Every step keeps, besides the line: while the LCDF is initialised and no write has failed since the start of
the last `INIT`, the nibbles the controller latched since the 4-bit switch are whole bytes, so that it waits for
a high one (R35, R37, R188; log entries 17 and 18). -/
def Obligations.StepKeepsTrustedInPhase : Prop :=
  ∀ s t : State, s.TrustedLineLow → s.TrustedInPhase → step s = .next t → t.TrustedInPhase

/-- The state after reset meets every invariant above. -/
def Obligations.ResetMeetsInvariants : Prop :=
  State.reset.RegistersLegal ∧ State.reset.BusDisciplined ∧ State.reset.LinesIdle ∧
    State.reset.Answered ∧ State.reset.MemoryOk ∧ State.reset.TrustedLineLow ∧
    State.reset.TrustedInPhase

/-- After reset the LCDF is not ready and has no error, `BL` is `BL_INIT`, `DEV_ADDR` is `0x27`, `opi` is 0,
the trace is empty and `xout` is a free value (R22, R36, R180; log entry 5); the zeros of `DCTL` and `EMODE`
are the model's choice and are not stated (log entry 1). -/
def Obligations.ResetValues : Prop :=
  State.reset.ready = false ∧ State.reset.err = false ∧ State.reset.bl = State.reset.blInit ∧
    State.reset.devAddr = 0x27 ∧ State.reset.opi = 0 ∧ State.reset.trace = [] ∧
    State.reset.responses = [] ∧ State.reset.xout = Config.xoutAtReset

/-- The reset input (R180, R181): the LCDF's registers take their reset values, no event is made, and the
straps, the expander and what the controller latched are as they were (log entry 13). -/
def Obligations.ResetInput : Prop :=
  ∀ s : State,
    s.assertReset.ready = false ∧ s.assertReset.err = false ∧ s.assertReset.bl = s.blInit ∧
    s.assertReset.opi = 0 ∧ s.assertReset.trace = [] ∧ s.assertReset.devAddr = s.devAddr ∧
    s.assertReset.blInit = s.blInit ∧ s.assertReset.expander = s.expander ∧
    s.assertReset.latches = s.latches ∧ s.assertReset.pairedFrom = s.pairedFrom

/-- `DCTL` and `EMODE` cannot be observed while they hold no value (R22): of two machines that are not ready
and differ in these two registers only, an operation makes two that differ in them only, and not even in
them if it made them ready. So nothing rests on the zeros that log entry 1 gives them at reset. -/
def Obligations.UnwrittenFlagsUnobservable : Prop :=
  ∀ (i : Instr) (s t u : State) (dctl emode : Byte), s.ready = false →
    exec i s = .next t → exec i (s.withFlags dctl emode) = .next u →
    u.withFlags t.dctl t.emode = t ∧ (t.ready = true → u = t)

/-! ## The bus -/

/-- Every store the LCDF makes is the two bytes `0x00, v` to `DEV_ADDR`, whatever the transport answers: no
other pointer, no other device, no other location of the expander (R31). -/
def Obligations.EveryStoreIsExpanderWrite : Prop :=
  ∀ s t : State, step s = .next t →
    (∀ d p v r, Event.write d p v r ∈ s.newEvents t → d = s.devAddr ∧ p = 0x00) ∧
    ∀ a, a ≠ 0 → Memory.read t.expander a = Memory.read s.expander a

/-- `Pack(n, rs, en, bl) = (n << 4) | (bl << 3) | (en << 2) | (0 << 1) | rs`, and bit 1 of every byte the
LCDF emits is 0 (R57). -/
def Obligations.PackLayout : Prop :=
  (∀ (n : Nibble) (rs en bl : Bool),
    pack n rs en bl =
      (n.setWidth 8 <<< 4) ||| ((BitVec.ofBool bl).setWidth 8 <<< 3) |||
        ((BitVec.ofBool en).setWidth 8 <<< 2) ||| ((0 : Byte) <<< 1) |||
        (BitVec.ofBool rs).setWidth 8) ∧
  ∀ s t : State, step s = .next t →
    ∀ d p v r, Event.write d p v r ∈ s.newEvents t → v.getLsbD 1 = false

/-- The backlight bit is embedded in every expander write of an operation, as the operation leaves it (R11). -/
def Obligations.BacklightInEveryWrite : Prop :=
  ∀ (i : Instr) (s t : State), exec i s = .next t →
    ∀ d p v r, Event.write d p v r ∈ s.newEvents t → v.getLsbD 3 = t.bl

/-- Between every enable-high write and the enable-low write of the same byte stands a delay of at least
`T_PULSE`, 1 microsecond (R4), and no bus activity (R185). -/
def Obligations.EnablePulseHeld : Prop :=
  ∀ s t : State, step s = .next t → Trace.pulsesHeld (s.newEvents t) = true

/-- After the falling edge of every nibble transmission nothing is issued for at least `T_SETTLE`, 50
microseconds (R4, R186). -/
def Obligations.SettledAfterFallingEdge : Prop :=
  ∀ s t : State, step s = .next t → Trace.settledFrom false (s.newEvents t) = true

/-- After an operation `xout` is the value of its last write, if that succeeded, and the expander and the
controller's latch are as they were if the operation made no write (R36, R37). -/
def Obligations.XoutIsLastWrite : Prop :=
  ∀ (i : Instr) (s t : State), exec i s = .next t →
    (∀ d p v, (Trace.writes (s.newEvents t)).getLast? = some (.write d p v .ok) → t.xout = v) ∧
    (Trace.writes (s.newEvents t) = [] → t.expander = s.expander ∧ t.latches = s.latches)

/-- `XWRITE(v)` makes exactly one bus write of `v`, changes no register of the LCDF, is never retried, and
goes on with the rest if it succeeded or ends the sequence if it failed (R80, R82). That the outputs hold some
value after a `FAIL`, and that the controller latches at a falling edge of the enable line, on that value too,
is the model's choice (log entries 4 and 17). -/
def Obligations.XwriteIsOneWrite : Prop :=
  ∀ (v : Byte) (s : State) (rest : State → Ended),
    (s.answerAt 0 = .ok →
      xwriteThen v s rest =
        rest { s with
          trace := s.trace ++ [.write s.devAddr 0x00 v .ok]
          expander := Memory.write s.expander 0 v
          latches := s.latches ++ latchEvents [s.xout, v]
          answers := s.answers.tail
          draws := s.draws + 1 }) ∧
    (s.answerAt 0 = .fail →
      ∃ x, xwriteThen v s rest =
        .failed { s with
          trace := s.trace ++ [.write s.devAddr 0x00 v .fail]
          expander := Memory.write s.expander 0 x
          latches := s.latches ++ latchEvents [s.xout, x]
          answers := s.answers.tail
          draws := s.draws + 1 })

/-- `NIBBLE(n, rs)` leaves the five events of R90 when its writes succeed and changes no register; a failure at
its first, second or third write leaves the events up to that write (R81, R94). The controller latches
`(rs, n)` once; before it, a nibble no one sent if the enable line was left high; after a failed write whatever
the free value of the outputs makes of it: nothing of this nibble at the first and the second, the nibble or
nothing at the third (R37, R94; log entries 4 and 17). The delays are the reference values (log entries 8
and 10). -/
def Obligations.NibbleProtocol : Prop :=
  ∀ (n : Nibble) (rs : Bool) (s : State),
    let b := pack n rs false s.bl
    let run := runScript (nibble n rs s.bl) s
    (s.AllOk 3 → ∃ t, run = .completed t ∧
      t.trace = s.trace ++
        [s.w b, s.w (b ||| 0x04), .delay 1, s.w (b &&& ~~~(0x04 : Byte)), .delay 50] ∧
      t.latches = s.latches ++ s.strayLatch ++ [(rs, n)] ∧ t.xout = b) ∧
    (s.FailsAt 0 → ∃ t, run = .failed t ∧
      t.trace = s.trace ++ [.write s.devAddr 0x00 b .fail] ∧
      t.latches = s.latches ++ (if t.xout.getLsbD 2 then [] else s.strayLatch)) ∧
    (s.FailsAt 1 → ∃ t, run = .failed t ∧
      t.trace = s.trace ++ [s.w b, .write s.devAddr 0x00 (b ||| 0x04) .fail] ∧
      t.latches = s.latches ++ s.strayLatch) ∧
    (s.FailsAt 2 → ∃ t, run = .failed t ∧
      t.trace = s.trace ++
        [s.w b, s.w (b ||| 0x04), .delay 1, .write s.devAddr 0x00 b .fail] ∧
      t.latches = s.latches ++ s.strayLatch ++ (if t.xout.getLsbD 2 then [] else [(rs, n)])) ∧
    run.state.ready = s.ready ∧ run.state.err = s.err ∧ run.state.bl = s.bl ∧
    run.state.dctl = s.dctl ∧ run.state.emode = s.emode

/-! ## What the controller receives -/

/-- What the controller latches in an operation (R36, R37): the falling edges of the enable line as the
expander's outputs go from what they were through the values written; a failed write, the last one, leaves them
at any value (R47, R94; log entries 4 and 17). -/
def Obligations.LatchesFollowOutputs : Prop :=
  ∀ (i : Instr) (s t : State), exec i s = .next t →
    ((∀ e ∈ s.newEvents t, e.answeredOk = e) →
      t.latches = s.latches ++ latchEvents (s.xout :: Trace.okValues (s.newEvents t))) ∧
    ((∃ e ∈ s.newEvents t, e.answeredOk ≠ e) →
      t.latches = s.latches ++
        latchEvents (s.xout :: Trace.okValues (s.newEvents t) ++ [t.xout]))

/-- While what the controller received can be told, `STATUS.ready = 1` and `STATUS.err = 0` (R188), an operation
other than `INIT` that is accepted and has every write answered `OK` makes the controller latch exactly the nibble
pairs of the bytes it stands for, one byte for a framed operation, nothing for a backlight operation, in phase: the
bytes received since the 4-bit switch grow by exactly those (R37, R101, R109). The line and the phase are
`StepKeepsTrustedLineLow` and `StepKeepsTrustedInPhase`. Numerals: log entry 8. -/
def Obligations.OperationDelivers : Prop :=
  ∀ (i : Instr) (s : State), i ≠ .init → s.Accepts i → s.trustworthy = true →
    s.TrustedLineLow → s.TrustedInPhase → s.AllOk (busWrites i) →
    ∃ t sent, exec i s = .next t ∧ t.trustworthy = true ∧
      t.latches = s.latches ++ sent ∧ sent.length = latchCount i ∧
      Trace.pairUp sent = delivered i s ∧
      t.received = s.received ++ delivered i s ∧ t.awaitsLow = false

/-- The same whatever the transport answers, as long as `STATUS.ready = 1` and `STATUS.err = 0` before and after an
operation other than `INIT` (R188): the operation ended `OK` and the controller latched exactly the nibble pairs
it stands for, in phase, or it was turned away for its operands and the controller latched nothing. Numerals: log
entry 8. -/
def Obligations.TrustedOperationDelivers : Prop :=
  ∀ (i : Instr) (s t : State), i ≠ .init → s.TrustedLineLow → s.TrustedInPhase →
    s.trustworthy = true → exec i s = .next t → t.trustworthy = true →
    ∃ sent, t.latches = s.latches ++ sent ∧
      ((t.lastCode = some .ok ∧ sent.length = latchCount i ∧ Trace.pairUp sent = delivered i s ∧
          t.received = s.received ++ delivered i s ∧ t.awaitsLow = false) ∨
       (t.lastCode = some .operandFault ∧ sent = [] ∧ t.received = s.received))

/-- A successful `INIT`, which leaves `STATUS.ready = 1` and `STATUS.err = 0`, makes the controller latch, after the
nibble no one sent if the enable line was high (R94, R181), the nibbles 3, 3, 3, 2, switches it to 4-bit mode, and
then delivers exactly the command bytes `0x28`, `0x0C`, `0x01`, `0x06`, `0x02`, all with register-select 0: these
are the bytes received since the switch (R133 to R139, R142, R188; log entries 17 and 18). Numerals: log entry
8. -/
def Obligations.InitDelivers : Prop :=
  ∀ s : State, s.AllOk 42 →
    ∃ t sent, exec .init s = .next t ∧ t.trustworthy = true ∧
      t.latches = s.latches ++ s.strayLatch ++
        [(false, 0x3), (false, 0x3), (false, 0x3), (false, 0x2)] ++ sent ∧
      t.sinceSwitch = sent ∧ sent.length = 10 ∧ t.awaitsLow = false ∧
      t.received = delivered .init s

/-- What of the delays is normative (R40): adjacent delays may be merged and a delay may be lengthened, and the
trace still conforms; a delay that is shortened, or moved across a write, does not. That the place before the
first write counts like the places between two writes is the model's reading (log entry 10). -/
def Obligations.DelaysMergeAndLengthen : Prop :=
  ∀ (pre post : List Event) (a b : Nat),
    Trace.conforms (pre ++ [.delay a, .delay b] ++ post) (pre ++ [.delay (a + b)] ++ post) = true ∧
    Trace.conforms (pre ++ [.delay a] ++ post) (pre ++ [.delay (a + b)] ++ post) = true ∧
    (0 < b → Trace.conforms (pre ++ [.delay (a + b)] ++ post) (pre ++ [.delay a] ++ post) = false) ∧
    (0 < b → ∀ d p v r,
      Trace.conforms (pre ++ [.delay b, .write d p v r] ++ post)
        (pre ++ [.write d p v r, .delay b] ++ post) = false)

/-! ## Operands and `PRINT_STR` -/

/-- The row-offset table has exactly four entries (R61). -/
def Obligations.RowOffsetTable : Prop :=
  Config.rowOffset 0 = some 0x00 ∧ Config.rowOffset 1 = some 0x40 ∧
    Config.rowOffset 2 = some 0x14 ∧ Config.rowOffset 3 = some 0x54 ∧
    ∀ row : Byte, 3 < row.toNat → Config.rowOffset row = none

/-- `PRINT_STR` of a text with every write answered `OK` frames every character in order, `6k` writes, one
operation each, result `OK` (R103). -/
def Obligations.PrintStrSendsEveryCharacter : Prop :=
  ∀ (text : List Char) (s : State), s.ready = true → s.AllOk (6 * text.length) →
    (printStr text s).2 = .ok ∧
    (printStr text s).1.opi = s.opi + text.length ∧
    (printStr text s).1.trace =
      s.trace ++ text.flatMap fun c => s.frameTrace (BitVec.ofNat 8 c.toNat) true s.bl

/-- `PRINT_STR` stops at the first `PRINT` that does not end `OK` (R103): at the character whose write fails,
and at the first character when not ready. -/
def Obligations.PrintStrStopsAtFailure : Prop :=
  (∀ (text : List Char) (s : State) (j m : Nat), s.ready = true → j < text.length → m < 6 →
    s.FailsAt (6 * j + m) →
    (printStr text s).2 = .transportErr ∧
    (printStr text s).1.opi = s.opi + j + 1 ∧
    Trace.writeCount (s.newEvents (printStr text s).1) = 6 * j + m + 1) ∧
  (∀ (c : Char) (text : List Char) (s : State), s.ready = false →
    printStr (c :: text) s = (s.turnedAway .notReady, .notReady))
end

