-- ==== Sys2Proof/Laws/Memory.lean ====
section
/-! SUPPORT. The expander's register space: read after write, canonical form, overwriting. -/

namespace Sys2Proof.Machine

/-- A location reads as what was last stored there. -/
@[simp] theorem Memory.read_write_same (m : Memory) (a : Nat) (v : Byte) :
    Memory.read (Memory.write m a v) a = some v := by
  induction m with
  | nil => simp [Memory.write, Memory.read]
  | cons c m ih =>
    simp only [Memory.write]
    split
    · simp [Memory.read]
    · split
      · simp [Memory.read]
      · next h => simp [Memory.read, Ne.symm h, ih]

/-- A store leaves every other location alone. -/
theorem Memory.read_write_other (m : Memory) {a b : Nat} (v : Byte) (h : b ≠ a) :
    Memory.read (Memory.write m a v) b = Memory.read m b := by
  induction m with
  | nil => simp [Memory.write, Memory.read, Ne.symm h]
  | cons c m ih =>
    simp only [Memory.write]
    split
    · simp [Memory.read, Ne.symm h]
    · split
      · next _ e => subst e; simp [Memory.read, Ne.symm h]
      · simp [Memory.read, ih]

/-- The second of two stores to one location is the one that counts. -/
@[simp] theorem Memory.write_write (m : Memory) (a : Nat) (v v' : Byte) :
    Memory.write (Memory.write m a v) a v' = Memory.write m a v' := by
  induction m with
  | nil => simp [Memory.write]
  | cons c m ih =>
    simp only [Memory.write]
    split
    · simp [Memory.write]
    · split
      · simp [Memory.write]
      · next h₁ h₂ => simp [Memory.write, h₁, h₂, ih]

theorem Memory.wfFrom_write (m : Memory) {lo a : Nat} (v : Byte) (hlo : lo ≤ a) (ha : a < 256)
    (h : Memory.wfFrom lo m = true) : Memory.wfFrom lo (Memory.write m a v) = true := by
  induction m generalizing lo with
  | nil => simp [Memory.write, Memory.wfFrom, hlo, ha]
  | cons c m ih =>
    simp only [Memory.wfFrom, Bool.and_eq_true, decide_eq_true_eq] at h
    obtain ⟨⟨h₁, h₂⟩, h₃⟩ := h
    simp only [Memory.write]
    split
    · next hac => simp [Memory.wfFrom, hlo, ha, h₂, h₃]; omega
    · split
      · next e => subst e; simp [Memory.wfFrom, hlo, ha, h₃]
      · next hac hne =>
        simp only [Memory.wfFrom, Bool.and_eq_true, decide_eq_true_eq]
        exact ⟨⟨h₁, h₂⟩, ih (by omega) h₃⟩

/-- A store keeps the canonical form. -/
theorem Memory.wf_write (m : Memory) {a : Nat} (v : Byte) (ha : a < 256) (h : Memory.wf m = true) :
    Memory.wf (Memory.write m a v) = true :=
  Memory.wfFrom_write m v (Nat.zero_le a) ha h

/-- One location listed is canonical: the memory of `State.reset`. -/
theorem Memory.wf_single {a : Nat} (v : Byte) (ha : a < 256) : Memory.wf [(a, v)] = true := by
  simp [Memory.wf, Memory.wfFrom, ha]

end Sys2Proof.Machine
end

