-- ==== Sys2Proof/Laws/State.lean ====
section
/-! SUPPORT. What each update of the state leaves in each field: one lemma per field per update. -/

namespace Sys2Proof.Machine

variable (s : State)

/-! ## `busWrite` -/

@[simp] theorem State.busWrite_ready (v : Byte) : (s.busWrite v).ready = s.ready := rfl
@[simp] theorem State.busWrite_err (v : Byte) : (s.busWrite v).err = s.err := rfl
@[simp] theorem State.busWrite_bl (v : Byte) : (s.busWrite v).bl = s.bl := rfl
@[simp] theorem State.busWrite_dctl (v : Byte) : (s.busWrite v).dctl = s.dctl := rfl
@[simp] theorem State.busWrite_emode (v : Byte) : (s.busWrite v).emode = s.emode := rfl
@[simp] theorem State.busWrite_devAddr (v : Byte) : (s.busWrite v).devAddr = s.devAddr := rfl
@[simp] theorem State.busWrite_blInit (v : Byte) : (s.busWrite v).blInit = s.blInit := rfl
@[simp] theorem State.busWrite_opi (v : Byte) : (s.busWrite v).opi = s.opi := rfl
@[simp] theorem State.busWrite_program (v : Byte) : (s.busWrite v).program = s.program := rfl
@[simp] theorem State.busWrite_trace (v : Byte) :
    (s.busWrite v).trace = s.trace ++ [.write s.devAddr Config.regPtr v s.nextAnswer] := rfl
@[simp] theorem State.busWrite_responses (v : Byte) :
    (s.busWrite v).responses = s.responses := rfl
@[simp] theorem State.busWrite_expander (v : Byte) :
    (s.busWrite v).expander = Memory.write s.expander Config.regPtr.toNat (s.stored v) := rfl
@[simp] theorem State.busWrite_latches (v : Byte) :
    (s.busWrite v).latches = s.latches ++ latchEvents [s.xout, s.stored v] := rfl
@[simp] theorem State.busWrite_pairedFrom (v : Byte) :
    (s.busWrite v).pairedFrom = s.pairedFrom := rfl
@[simp] theorem State.busWrite_answers (v : Byte) :
    (s.busWrite v).answers = s.answers.tail := rfl
@[simp] theorem State.busWrite_draws (v : Byte) : (s.busWrite v).draws = s.draws + 1 := rfl

/-- After a bus write the output register holds what the write stored (R36, R47). -/
@[simp] theorem State.busWrite_xout (v : Byte) : (s.busWrite v).xout = s.stored v := by
  simp [State.xout]

/-! ## `logDelay` -/

@[simp] theorem State.logDelay_ready (us : Nat) : (s.logDelay us).ready = s.ready := rfl
@[simp] theorem State.logDelay_err (us : Nat) : (s.logDelay us).err = s.err := rfl
@[simp] theorem State.logDelay_bl (us : Nat) : (s.logDelay us).bl = s.bl := rfl
@[simp] theorem State.logDelay_dctl (us : Nat) : (s.logDelay us).dctl = s.dctl := rfl
@[simp] theorem State.logDelay_emode (us : Nat) : (s.logDelay us).emode = s.emode := rfl
@[simp] theorem State.logDelay_devAddr (us : Nat) : (s.logDelay us).devAddr = s.devAddr := rfl
@[simp] theorem State.logDelay_blInit (us : Nat) : (s.logDelay us).blInit = s.blInit := rfl
@[simp] theorem State.logDelay_opi (us : Nat) : (s.logDelay us).opi = s.opi := rfl
@[simp] theorem State.logDelay_program (us : Nat) : (s.logDelay us).program = s.program := rfl
@[simp] theorem State.logDelay_trace (us : Nat) :
    (s.logDelay us).trace = s.trace ++ [.delay us] := rfl
@[simp] theorem State.logDelay_responses (us : Nat) :
    (s.logDelay us).responses = s.responses := rfl
@[simp] theorem State.logDelay_expander (us : Nat) :
    (s.logDelay us).expander = s.expander := rfl
@[simp] theorem State.logDelay_xout (us : Nat) : (s.logDelay us).xout = s.xout := rfl
@[simp] theorem State.logDelay_latches (us : Nat) :
    (s.logDelay us).latches = s.latches := rfl
@[simp] theorem State.logDelay_pairedFrom (us : Nat) :
    (s.logDelay us).pairedFrom = s.pairedFrom := rfl
@[simp] theorem State.logDelay_answers (us : Nat) : (s.logDelay us).answers = s.answers := rfl
@[simp] theorem State.logDelay_draws (us : Nat) : (s.logDelay us).draws = s.draws := rfl

/-! ## `setReady` -/

@[simp] theorem State.setReady_ready (b : Bool) : (s.setReady b).ready = b := rfl
@[simp] theorem State.setReady_err (b : Bool) : (s.setReady b).err = s.err := rfl
@[simp] theorem State.setReady_bl (b : Bool) : (s.setReady b).bl = s.bl := rfl
@[simp] theorem State.setReady_dctl (b : Bool) : (s.setReady b).dctl = s.dctl := rfl
@[simp] theorem State.setReady_emode (b : Bool) : (s.setReady b).emode = s.emode := rfl
@[simp] theorem State.setReady_devAddr (b : Bool) : (s.setReady b).devAddr = s.devAddr := rfl
@[simp] theorem State.setReady_blInit (b : Bool) : (s.setReady b).blInit = s.blInit := rfl
@[simp] theorem State.setReady_opi (b : Bool) : (s.setReady b).opi = s.opi := rfl
@[simp] theorem State.setReady_program (b : Bool) : (s.setReady b).program = s.program := rfl
@[simp] theorem State.setReady_trace (b : Bool) : (s.setReady b).trace = s.trace := rfl
@[simp] theorem State.setReady_responses (b : Bool) :
    (s.setReady b).responses = s.responses := rfl
@[simp] theorem State.setReady_expander (b : Bool) : (s.setReady b).expander = s.expander := rfl
@[simp] theorem State.setReady_xout (b : Bool) : (s.setReady b).xout = s.xout := rfl
@[simp] theorem State.setReady_latches (b : Bool) :
    (s.setReady b).latches = s.latches := rfl
@[simp] theorem State.setReady_pairedFrom (b : Bool) :
    (s.setReady b).pairedFrom = s.pairedFrom := rfl
@[simp] theorem State.setReady_answers (b : Bool) : (s.setReady b).answers = s.answers := rfl
@[simp] theorem State.setReady_draws (b : Bool) : (s.setReady b).draws = s.draws := rfl

/-! ## `setErr` -/

@[simp] theorem State.setErr_ready (b : Bool) : (s.setErr b).ready = s.ready := rfl
@[simp] theorem State.setErr_err (b : Bool) : (s.setErr b).err = b := rfl
@[simp] theorem State.setErr_bl (b : Bool) : (s.setErr b).bl = s.bl := rfl
@[simp] theorem State.setErr_dctl (b : Bool) : (s.setErr b).dctl = s.dctl := rfl
@[simp] theorem State.setErr_emode (b : Bool) : (s.setErr b).emode = s.emode := rfl
@[simp] theorem State.setErr_devAddr (b : Bool) : (s.setErr b).devAddr = s.devAddr := rfl
@[simp] theorem State.setErr_blInit (b : Bool) : (s.setErr b).blInit = s.blInit := rfl
@[simp] theorem State.setErr_opi (b : Bool) : (s.setErr b).opi = s.opi := rfl
@[simp] theorem State.setErr_program (b : Bool) : (s.setErr b).program = s.program := rfl
@[simp] theorem State.setErr_trace (b : Bool) : (s.setErr b).trace = s.trace := rfl
@[simp] theorem State.setErr_responses (b : Bool) : (s.setErr b).responses = s.responses := rfl
@[simp] theorem State.setErr_expander (b : Bool) : (s.setErr b).expander = s.expander := rfl
@[simp] theorem State.setErr_xout (b : Bool) : (s.setErr b).xout = s.xout := rfl
@[simp] theorem State.setErr_latches (b : Bool) :
    (s.setErr b).latches = s.latches := rfl
@[simp] theorem State.setErr_pairedFrom (b : Bool) :
    (s.setErr b).pairedFrom = s.pairedFrom := rfl
@[simp] theorem State.setErr_answers (b : Bool) : (s.setErr b).answers = s.answers := rfl
@[simp] theorem State.setErr_draws (b : Bool) : (s.setErr b).draws = s.draws := rfl

/-! ## `setBl` -/

@[simp] theorem State.setBl_ready (b : Bool) : (s.setBl b).ready = s.ready := rfl
@[simp] theorem State.setBl_err (b : Bool) : (s.setBl b).err = s.err := rfl
@[simp] theorem State.setBl_bl (b : Bool) : (s.setBl b).bl = b := rfl
@[simp] theorem State.setBl_dctl (b : Bool) : (s.setBl b).dctl = s.dctl := rfl
@[simp] theorem State.setBl_emode (b : Bool) : (s.setBl b).emode = s.emode := rfl
@[simp] theorem State.setBl_devAddr (b : Bool) : (s.setBl b).devAddr = s.devAddr := rfl
@[simp] theorem State.setBl_blInit (b : Bool) : (s.setBl b).blInit = s.blInit := rfl
@[simp] theorem State.setBl_opi (b : Bool) : (s.setBl b).opi = s.opi := rfl
@[simp] theorem State.setBl_program (b : Bool) : (s.setBl b).program = s.program := rfl
@[simp] theorem State.setBl_trace (b : Bool) : (s.setBl b).trace = s.trace := rfl
@[simp] theorem State.setBl_responses (b : Bool) : (s.setBl b).responses = s.responses := rfl
@[simp] theorem State.setBl_expander (b : Bool) : (s.setBl b).expander = s.expander := rfl
@[simp] theorem State.setBl_xout (b : Bool) : (s.setBl b).xout = s.xout := rfl
@[simp] theorem State.setBl_latches (b : Bool) :
    (s.setBl b).latches = s.latches := rfl
@[simp] theorem State.setBl_pairedFrom (b : Bool) :
    (s.setBl b).pairedFrom = s.pairedFrom := rfl
@[simp] theorem State.setBl_answers (b : Bool) : (s.setBl b).answers = s.answers := rfl
@[simp] theorem State.setBl_draws (b : Bool) : (s.setBl b).draws = s.draws := rfl

/-! ## `setDctl` -/

@[simp] theorem State.setDctl_ready (v : Byte) : (s.setDctl v).ready = s.ready := rfl
@[simp] theorem State.setDctl_err (v : Byte) : (s.setDctl v).err = s.err := rfl
@[simp] theorem State.setDctl_bl (v : Byte) : (s.setDctl v).bl = s.bl := rfl
@[simp] theorem State.setDctl_dctl (v : Byte) : (s.setDctl v).dctl = dctlWrite v := rfl
@[simp] theorem State.setDctl_emode (v : Byte) : (s.setDctl v).emode = s.emode := rfl
@[simp] theorem State.setDctl_devAddr (v : Byte) : (s.setDctl v).devAddr = s.devAddr := rfl
@[simp] theorem State.setDctl_blInit (v : Byte) : (s.setDctl v).blInit = s.blInit := rfl
@[simp] theorem State.setDctl_opi (v : Byte) : (s.setDctl v).opi = s.opi := rfl
@[simp] theorem State.setDctl_program (v : Byte) : (s.setDctl v).program = s.program := rfl
@[simp] theorem State.setDctl_trace (v : Byte) : (s.setDctl v).trace = s.trace := rfl
@[simp] theorem State.setDctl_responses (v : Byte) :
    (s.setDctl v).responses = s.responses := rfl
@[simp] theorem State.setDctl_expander (v : Byte) : (s.setDctl v).expander = s.expander := rfl
@[simp] theorem State.setDctl_xout (v : Byte) : (s.setDctl v).xout = s.xout := rfl
@[simp] theorem State.setDctl_latches (v : Byte) :
    (s.setDctl v).latches = s.latches := rfl
@[simp] theorem State.setDctl_pairedFrom (v : Byte) :
    (s.setDctl v).pairedFrom = s.pairedFrom := rfl
@[simp] theorem State.setDctl_answers (v : Byte) : (s.setDctl v).answers = s.answers := rfl
@[simp] theorem State.setDctl_draws (v : Byte) : (s.setDctl v).draws = s.draws := rfl

/-! ## `setEmode` -/

@[simp] theorem State.setEmode_ready (v : Byte) : (s.setEmode v).ready = s.ready := rfl
@[simp] theorem State.setEmode_err (v : Byte) : (s.setEmode v).err = s.err := rfl
@[simp] theorem State.setEmode_bl (v : Byte) : (s.setEmode v).bl = s.bl := rfl
@[simp] theorem State.setEmode_dctl (v : Byte) : (s.setEmode v).dctl = s.dctl := rfl
@[simp] theorem State.setEmode_emode (v : Byte) : (s.setEmode v).emode = emodeWrite v := rfl
@[simp] theorem State.setEmode_devAddr (v : Byte) : (s.setEmode v).devAddr = s.devAddr := rfl
@[simp] theorem State.setEmode_blInit (v : Byte) : (s.setEmode v).blInit = s.blInit := rfl
@[simp] theorem State.setEmode_opi (v : Byte) : (s.setEmode v).opi = s.opi := rfl
@[simp] theorem State.setEmode_program (v : Byte) : (s.setEmode v).program = s.program := rfl
@[simp] theorem State.setEmode_trace (v : Byte) : (s.setEmode v).trace = s.trace := rfl
@[simp] theorem State.setEmode_responses (v : Byte) :
    (s.setEmode v).responses = s.responses := rfl
@[simp] theorem State.setEmode_expander (v : Byte) : (s.setEmode v).expander = s.expander := rfl
@[simp] theorem State.setEmode_xout (v : Byte) : (s.setEmode v).xout = s.xout := rfl
@[simp] theorem State.setEmode_latches (v : Byte) :
    (s.setEmode v).latches = s.latches := rfl
@[simp] theorem State.setEmode_pairedFrom (v : Byte) :
    (s.setEmode v).pairedFrom = s.pairedFrom := rfl
@[simp] theorem State.setEmode_answers (v : Byte) : (s.setEmode v).answers = s.answers := rfl
@[simp] theorem State.setEmode_draws (v : Byte) : (s.setEmode v).draws = s.draws := rfl

/-! ## `switch4` -/

@[simp] theorem State.switch4_ready : s.switch4.ready = s.ready := rfl
@[simp] theorem State.switch4_err : s.switch4.err = s.err := rfl
@[simp] theorem State.switch4_bl : s.switch4.bl = s.bl := rfl
@[simp] theorem State.switch4_dctl : s.switch4.dctl = s.dctl := rfl
@[simp] theorem State.switch4_emode : s.switch4.emode = s.emode := rfl
@[simp] theorem State.switch4_devAddr : s.switch4.devAddr = s.devAddr := rfl
@[simp] theorem State.switch4_blInit : s.switch4.blInit = s.blInit := rfl
@[simp] theorem State.switch4_opi : s.switch4.opi = s.opi := rfl
@[simp] theorem State.switch4_program : s.switch4.program = s.program := rfl
@[simp] theorem State.switch4_trace : s.switch4.trace = s.trace := rfl
@[simp] theorem State.switch4_responses : s.switch4.responses = s.responses := rfl
@[simp] theorem State.switch4_expander : s.switch4.expander = s.expander := rfl
@[simp] theorem State.switch4_xout : s.switch4.xout = s.xout := rfl
@[simp] theorem State.switch4_latches : s.switch4.latches = s.latches := rfl
@[simp] theorem State.switch4_answers : s.switch4.answers = s.answers := rfl
@[simp] theorem State.switch4_draws : s.switch4.draws = s.draws := rfl
@[simp] theorem State.switch4_pairedFrom : s.switch4.pairedFrom = s.latches.length := rfl

/-! ## `respond` -/

@[simp] theorem State.respond_ready (c : ResponseCode) : (s.respond c).ready = s.ready := rfl
@[simp] theorem State.respond_err (c : ResponseCode) : (s.respond c).err = s.err := rfl
@[simp] theorem State.respond_bl (c : ResponseCode) : (s.respond c).bl = s.bl := rfl
@[simp] theorem State.respond_dctl (c : ResponseCode) : (s.respond c).dctl = s.dctl := rfl
@[simp] theorem State.respond_emode (c : ResponseCode) : (s.respond c).emode = s.emode := rfl
@[simp] theorem State.respond_devAddr (c : ResponseCode) :
    (s.respond c).devAddr = s.devAddr := rfl
@[simp] theorem State.respond_blInit (c : ResponseCode) : (s.respond c).blInit = s.blInit := rfl
@[simp] theorem State.respond_opi (c : ResponseCode) : (s.respond c).opi = s.opi + 1 := rfl
@[simp] theorem State.respond_program (c : ResponseCode) :
    (s.respond c).program = s.program := rfl
@[simp] theorem State.respond_trace (c : ResponseCode) : (s.respond c).trace = s.trace := rfl
@[simp] theorem State.respond_responses (c : ResponseCode) :
    (s.respond c).responses = s.responses ++ [{ code := c, ready := s.ready, err := s.err }] := rfl
@[simp] theorem State.respond_expander (c : ResponseCode) :
    (s.respond c).expander = s.expander := rfl
@[simp] theorem State.respond_xout (c : ResponseCode) : (s.respond c).xout = s.xout := rfl
@[simp] theorem State.respond_latches (c : ResponseCode) :
    (s.respond c).latches = s.latches := rfl
@[simp] theorem State.respond_pairedFrom (c : ResponseCode) :
    (s.respond c).pairedFrom = s.pairedFrom := rfl
@[simp] theorem State.respond_answers (c : ResponseCode) :
    (s.respond c).answers = s.answers := rfl
@[simp] theorem State.respond_draws (c : ResponseCode) : (s.respond c).draws = s.draws := rfl

/-! ## `assertReset` -/

@[simp] theorem State.assertReset_ready : s.assertReset.ready = false := rfl
@[simp] theorem State.assertReset_err : s.assertReset.err = false := rfl
@[simp] theorem State.assertReset_bl : s.assertReset.bl = s.blInit := rfl
@[simp] theorem State.assertReset_dctl : s.assertReset.dctl = 0 := rfl
@[simp] theorem State.assertReset_emode : s.assertReset.emode = 0 := rfl
@[simp] theorem State.assertReset_devAddr : s.assertReset.devAddr = s.devAddr := rfl
@[simp] theorem State.assertReset_blInit : s.assertReset.blInit = s.blInit := rfl
@[simp] theorem State.assertReset_opi : s.assertReset.opi = 0 := rfl
@[simp] theorem State.assertReset_program : s.assertReset.program = s.program := rfl
@[simp] theorem State.assertReset_trace : s.assertReset.trace = [] := rfl
@[simp] theorem State.assertReset_responses : s.assertReset.responses = [] := rfl
@[simp] theorem State.assertReset_expander : s.assertReset.expander = s.expander := rfl
@[simp] theorem State.assertReset_xout : s.assertReset.xout = s.xout := rfl
@[simp] theorem State.assertReset_latches :
    s.assertReset.latches = s.latches := rfl
@[simp] theorem State.assertReset_pairedFrom :
    s.assertReset.pairedFrom = s.pairedFrom := rfl
@[simp] theorem State.assertReset_answers : s.assertReset.answers = s.answers := rfl
@[simp] theorem State.assertReset_draws : s.assertReset.draws = s.draws := rfl

/-! ## `withFetchWord` -/

@[simp] theorem State.withFetchWord_ready (n w : Nat) :
    (s.withFetchWord n w).ready = s.ready := rfl
@[simp] theorem State.withFetchWord_err (n w : Nat) : (s.withFetchWord n w).err = s.err := rfl
@[simp] theorem State.withFetchWord_bl (n w : Nat) : (s.withFetchWord n w).bl = s.bl := rfl
@[simp] theorem State.withFetchWord_dctl (n w : Nat) :
    (s.withFetchWord n w).dctl = s.dctl := rfl
@[simp] theorem State.withFetchWord_emode (n w : Nat) :
    (s.withFetchWord n w).emode = s.emode := rfl
@[simp] theorem State.withFetchWord_devAddr (n w : Nat) :
    (s.withFetchWord n w).devAddr = s.devAddr := rfl
@[simp] theorem State.withFetchWord_blInit (n w : Nat) :
    (s.withFetchWord n w).blInit = s.blInit := rfl
@[simp] theorem State.withFetchWord_opi (n w : Nat) : (s.withFetchWord n w).opi = s.opi := rfl
@[simp] theorem State.withFetchWord_program (n w : Nat) :
    (s.withFetchWord n w).program = s.program.take s.opi ++ List.replicate (s.opi - s.program.length) 0 ++
      BitVec.ofNat 32 w :: s.program.drop (s.opi + 1) := rfl
@[simp] theorem State.withFetchWord_trace (n w : Nat) :
    (s.withFetchWord n w).trace = s.trace := rfl
@[simp] theorem State.withFetchWord_responses (n w : Nat) :
    (s.withFetchWord n w).responses = s.responses := rfl
@[simp] theorem State.withFetchWord_expander (n w : Nat) :
    (s.withFetchWord n w).expander = s.expander := rfl
@[simp] theorem State.withFetchWord_xout (n w : Nat) : (s.withFetchWord n w).xout = s.xout := rfl
@[simp] theorem State.withFetchWord_latches (n w : Nat) :
    (s.withFetchWord n w).latches = s.latches := rfl
@[simp] theorem State.withFetchWord_pairedFrom (n w : Nat) :
    (s.withFetchWord n w).pairedFrom = s.pairedFrom := rfl
@[simp] theorem State.withFetchWord_answers (n w : Nat) :
    (s.withFetchWord n w).answers = s.answers := rfl
@[simp] theorem State.withFetchWord_draws (n w : Nat) :
    (s.withFetchWord n w).draws = s.draws := rfl

/-! ## `endedOk` -/

@[simp] theorem State.endedOk_ready (es : List Event) (n : Nat) (v : Byte) :
    (s.endedOk es n v).ready = s.ready := rfl
@[simp] theorem State.endedOk_err (es : List Event) (n : Nat) (v : Byte) :
    (s.endedOk es n v).err = s.err := rfl
@[simp] theorem State.endedOk_bl (es : List Event) (n : Nat) (v : Byte) :
    (s.endedOk es n v).bl = s.bl := rfl
@[simp] theorem State.endedOk_dctl (es : List Event) (n : Nat) (v : Byte) :
    (s.endedOk es n v).dctl = s.dctl := rfl
@[simp] theorem State.endedOk_emode (es : List Event) (n : Nat) (v : Byte) :
    (s.endedOk es n v).emode = s.emode := rfl
@[simp] theorem State.endedOk_devAddr (es : List Event) (n : Nat) (v : Byte) :
    (s.endedOk es n v).devAddr = s.devAddr := rfl
@[simp] theorem State.endedOk_blInit (es : List Event) (n : Nat) (v : Byte) :
    (s.endedOk es n v).blInit = s.blInit := rfl
@[simp] theorem State.endedOk_opi (es : List Event) (n : Nat) (v : Byte) :
    (s.endedOk es n v).opi = s.opi + 1 := rfl
@[simp] theorem State.endedOk_program (es : List Event) (n : Nat) (v : Byte) :
    (s.endedOk es n v).program = s.program := rfl
@[simp] theorem State.endedOk_trace (es : List Event) (n : Nat) (v : Byte) :
    (s.endedOk es n v).trace = s.trace ++ es := rfl
@[simp] theorem State.endedOk_responses (es : List Event) (n : Nat) (v : Byte) :
    (s.endedOk es n v).responses = s.responses ++ [{ code := .ok, ready := s.ready, err := s.err }] := rfl
@[simp] theorem State.endedOk_expander (es : List Event) (n : Nat) (v : Byte) :
    (s.endedOk es n v).expander = Memory.write s.expander 0 v := rfl
@[simp] theorem State.endedOk_xout (es : List Event) (n : Nat) (v : Byte) :
    (s.endedOk es n v).xout = v := by
  simp [State.xout, State.endedOk, Config.regPtr]
@[simp] theorem State.endedOk_latches (es : List Event) (n : Nat) (v : Byte) :
    (s.endedOk es n v).latches = s.latches ++ latchEvents (s.xout :: Trace.okValues es) := rfl
@[simp] theorem State.endedOk_pairedFrom (es : List Event) (n : Nat) (v : Byte) :
    (s.endedOk es n v).pairedFrom = s.pairedFrom := rfl
@[simp] theorem State.endedOk_answers (es : List Event) (n : Nat) (v : Byte) :
    (s.endedOk es n v).answers = s.answers.drop n := rfl
@[simp] theorem State.endedOk_draws (es : List Event) (n : Nat) (v : Byte) :
    (s.endedOk es n v).draws = s.draws + n := rfl

/-! ## `turnedAway` -/

@[simp] theorem State.turnedAway_ready (c : ResponseCode) :
    (s.turnedAway c).ready = s.ready := rfl
@[simp] theorem State.turnedAway_err (c : ResponseCode) : (s.turnedAway c).err = s.err := rfl
@[simp] theorem State.turnedAway_bl (c : ResponseCode) : (s.turnedAway c).bl = s.bl := rfl
@[simp] theorem State.turnedAway_dctl (c : ResponseCode) : (s.turnedAway c).dctl = s.dctl := rfl
@[simp] theorem State.turnedAway_emode (c : ResponseCode) :
    (s.turnedAway c).emode = s.emode := rfl
@[simp] theorem State.turnedAway_devAddr (c : ResponseCode) :
    (s.turnedAway c).devAddr = s.devAddr := rfl
@[simp] theorem State.turnedAway_blInit (c : ResponseCode) :
    (s.turnedAway c).blInit = s.blInit := rfl
@[simp] theorem State.turnedAway_opi (c : ResponseCode) :
    (s.turnedAway c).opi = s.opi + 1 := rfl
@[simp] theorem State.turnedAway_program (c : ResponseCode) :
    (s.turnedAway c).program = s.program := rfl
@[simp] theorem State.turnedAway_trace (c : ResponseCode) :
    (s.turnedAway c).trace = s.trace := rfl
@[simp] theorem State.turnedAway_responses (c : ResponseCode) :
    (s.turnedAway c).responses = s.responses ++ [{ code := c, ready := s.ready, err := s.err }] := rfl
@[simp] theorem State.turnedAway_expander (c : ResponseCode) :
    (s.turnedAway c).expander = s.expander := rfl
@[simp] theorem State.turnedAway_xout (c : ResponseCode) : (s.turnedAway c).xout = s.xout := rfl
@[simp] theorem State.turnedAway_latches (c : ResponseCode) :
    (s.turnedAway c).latches = s.latches := rfl
@[simp] theorem State.turnedAway_pairedFrom (c : ResponseCode) :
    (s.turnedAway c).pairedFrom = s.pairedFrom := rfl
@[simp] theorem State.turnedAway_answers (c : ResponseCode) :
    (s.turnedAway c).answers = s.answers := rfl
@[simp] theorem State.turnedAway_draws (c : ResponseCode) :
    (s.turnedAway c).draws = s.draws := rfl

end Sys2Proof.Machine
end

