-- ==== Sys2Proof/Laws/Run.lean ====
section
/-! SUPPORT. What the run of an operation's sequence can do: how it splits, what it keeps, how it ends when
every write is answered `OK` and when one is not. -/

namespace Sys2Proof.Machine

/-! ## The transport's answers -/

theorem State.nextAnswer_eq (s : State) : s.nextAnswer = s.answerAt 0 := by
  cases h : s.answers <;> simp [State.nextAnswer, State.answerAt, h]

@[simp] theorem State.answerAt_busWrite (s : State) (v : Byte) (k : Nat) :
    (s.busWrite v).answerAt k = s.answerAt (k + 1) := by
  cases h : s.answers <;> simp [State.answerAt, h, Nat.add_assoc, Nat.add_comm 1]

/-- The answers to come depend on the script of answers and the counter alone. -/
theorem State.answerAt_congr {s t : State} (h₁ : s.answers = t.answers) (h₂ : s.draws = t.draws) :
    s.answerAt = t.answerAt := by
  funext k; simp [State.answerAt, h₁, h₂]

theorem State.AllOk.head {s : State} {n : Nat} (h : s.AllOk (n + 1)) : s.nextAnswer = .ok := by
  rw [State.nextAnswer_eq]; exact h 0 (by omega)

theorem State.AllOk.tail {s : State} {n : Nat} (h : s.AllOk (n + 1)) (v : Byte) :
    (s.busWrite v).AllOk n := fun k hk => by
  simpa using h (k + 1) (by omega)

theorem State.AllOk.mono {s : State} {m n : Nat} (h : s.AllOk n) (hmn : m ≤ n) : s.AllOk m :=
  fun k hk => h k (by omega)

/-! ## Latch events (R37) -/

@[simp] theorem Trace.okValues_append (a b : List Event) :
    Trace.okValues (a ++ b) = Trace.okValues a ++ Trace.okValues b := by
  simp [Trace.okValues]

@[simp] theorem Trace.okValues_nil : Trace.okValues [] = [] := rfl

@[simp] theorem Trace.okValues_write_ok (d : BitVec 7) (p v : Byte) (t : List Event) :
    Trace.okValues (.write d p v .ok :: t) = v :: Trace.okValues t := rfl

@[simp] theorem Trace.okValues_write_fail (d : BitVec 7) (p v : Byte) (t : List Event) :
    Trace.okValues (.write d p v .fail :: t) = Trace.okValues t := rfl

@[simp] theorem Trace.okValues_delay (us : Nat) (t : List Event) :
    Trace.okValues (.delay us :: t) = Trace.okValues t := rfl

/-- Latch events of outputs that go on from their last value. -/
theorem latchEvents_append {xs : List Byte} {v : Byte} (h : xs.getLast? = some v) (ys : List Byte) :
    latchEvents (xs ++ ys) = latchEvents xs ++ latchEvents (v :: ys) := by
  induction xs with
  | nil => cases h
  | cons a xs ih =>
    cases xs with
    | nil =>
      obtain rfl : a = v := by simpa using h
      rfl
    | cons b xs =>
      rw [List.getLast?_cons_cons] at h
      have ih := ih h
      simp only [List.cons_append] at ih ⊢
      simp only [latchEvents, ih]
      split <;> simp

/-- From low outputs nothing is latched before the next value. -/
theorem latchEvents_of_low {a : Byte} (h : a.getLsbD 2 = false) (rest : List Byte) :
    latchEvents (a :: rest) = latchEvents rest := by
  cases rest with
  | nil => rfl
  | cons b rest => simp only [latchEvents, h, Bool.false_and, Bool.false_eq_true, if_false]

/-- A first value with its enable bit 0 latches at most the nibble no one sent (R94). -/
theorem latchEvents_stray (s : State) {b : Byte} (h : b.getLsbD 2 = false) (rest : List Byte) :
    latchEvents (s.xout :: b :: rest) = s.strayLatch ++ latchEvents (b :: rest) := by
  simp only [latchEvents, State.strayLatch, h, Bool.not_false, Bool.and_true]
  split <;> simp

/-! ## The elements of a sequence -/

/-- What one element does to the state, a write's answer put aside. -/
def Act.apply : Act → State → State
  | .xwrite v, s => s.busWrite v
  | .delay us, s => s.logDelay us
  | .setReady b, s => s.setReady b
  | .setErr b, s => s.setErr b
  | .setBl b, s => s.setBl b
  | .setDctl v, s => s.setDctl v
  | .setEmode v, s => s.setEmode v
  | .switch4, s => s.switch4

/-- All elements in order. -/
def applyAll (script : List Act) (s : State) : State := script.foldl (fun s a => a.apply s) s

@[simp] theorem applyAll_nil (s : State) : applyAll [] s = s := rfl

@[simp] theorem applyAll_cons (a : Act) (script : List Act) (s : State) :
    applyAll (a :: script) s = applyAll script (a.apply s) := rfl

@[simp] theorem applyAll_append (a b : List Act) (s : State) :
    applyAll (a ++ b) s = applyAll b (applyAll a s) := by
  simp [applyAll, List.foldl_append]

/-- How many bus writes a sequence makes when none fails (R83). -/
def xwrites : List Act → Nat
  | [] => 0
  | .xwrite _ :: rest => xwrites rest + 1
  | .delay _ :: rest => xwrites rest
  | .setReady _ :: rest => xwrites rest
  | .setErr _ :: rest => xwrites rest
  | .setBl _ :: rest => xwrites rest
  | .setDctl _ :: rest => xwrites rest
  | .setEmode _ :: rest => xwrites rest
  | .switch4 :: rest => xwrites rest

@[simp] theorem xwrites_append (a b : List Act) : xwrites (a ++ b) = xwrites a + xwrites b := by
  induction a with
  | nil => simp [xwrites]
  | cons x a ih => cases x <;> (simp [xwrites, ih]; try omega)

/-- The event one element leaves when its write, if it is one, succeeds. -/
def Act.okEvent (dev : BitVec 7) : Act → Option Event
  | .xwrite v => some (.write dev 0x00 v .ok)
  | .delay us => some (.delay us)
  | .setReady _ => none
  | .setErr _ => none
  | .setBl _ => none
  | .setDctl _ => none
  | .setEmode _ => none
  | .switch4 => none

/-! ## The registers through a sequence -/

/-- The five registers that an operation can write (R10). -/
structure Registers where
  ready : Bool
  err : Bool
  bl : Bool
  dctl : Byte
  emode : Byte
  deriving DecidableEq, Repr

def State.registers (s : State) : Registers := ⟨s.ready, s.err, s.bl, s.dctl, s.emode⟩

/-- What one element does to the registers: neither a write nor a delay does anything to them (R80, R39). -/
def Act.onRegisters : Act → Registers → Registers
  | .xwrite _, r => r
  | .delay _, r => r
  | .setReady b, r => { r with ready := b }
  | .setErr b, r => { r with err := b }
  | .setBl b, r => { r with bl := b }
  | .setDctl v, r => { r with dctl := dctlWrite v }
  | .setEmode v, r => { r with emode := emodeWrite v }
  | .switch4, r => r

/-- The registers after a sequence, its writes put aside: they depend on neither the transport nor the rest of
the state. -/
theorem registers_applyAll (script : List Act) (s : State) :
    (applyAll script s).registers = script.foldl (fun r a => a.onRegisters r) s.registers := by
  induction script generalizing s with
  | nil => rfl
  | cons a rest ih => rw [applyAll_cons, ih]; cases a <;> rfl

/-! ## One write before the rest -/

theorem xwriteThen_ok {s : State} (h : s.nextAnswer = .ok) (v : Byte) (rest : State → Ended) :
    xwriteThen v s rest = rest (s.busWrite v) := by
  simp [xwriteThen, h]

theorem xwriteThen_fail {s : State} (h : s.nextAnswer = .fail) (v : Byte) (rest : State → Ended) :
    xwriteThen v s rest = .failed (s.busWrite v) := by
  simp [xwriteThen, h, Config.errPolicy]

/-- A write before the rest either goes on or has failed; there is one bus write in both cases (R82). -/
theorem xwriteThen_cases (v : Byte) (s : State) (rest : State → Ended) :
    (s.nextAnswer = .ok ∧ xwriteThen v s rest = rest (s.busWrite v)) ∨
    (s.nextAnswer = .fail ∧ xwriteThen v s rest = .failed (s.busWrite v)) := by
  cases h : s.nextAnswer
  · exact .inl ⟨rfl, xwriteThen_ok h v rest⟩
  · exact .inr ⟨rfl, xwriteThen_fail h v rest⟩

/-! ## The run of a sequence -/

/-- An element other than a write goes on with the rest. -/
theorem runScript_cons (a : Act) (rest : List Act) (s : State) :
    runScript (a :: rest) s = runScript rest (a.apply s) ∨
    ∃ v, a = .xwrite v ∧ s.nextAnswer = .fail ∧ runScript (a :: rest) s = .failed (s.busWrite v) := by
  cases a with
  | xwrite v =>
    rcases xwriteThen_cases v s (runScript rest) with ⟨_, h⟩ | ⟨hf, h⟩
    · exact .inl h
    · exact .inr ⟨v, rfl, hf, h⟩
  | _ => exact .inl rfl

/-- A sequence followed by another: the second runs where the first completed. -/
theorem runScript_append (a b : List Act) (s : State) :
    runScript (a ++ b) s =
      match runScript a s with
      | .completed t => runScript b t
      | .failed t => .failed t := by
  induction a generalizing s with
  | nil => rfl
  | cons x a ih =>
    cases x with
    | xwrite v =>
      rcases xwriteThen_cases v s (runScript (a ++ b)) with ⟨ho, h⟩ | ⟨hf, h⟩
      · simp only [List.cons_append, runScript, h, xwriteThen_ok ho, ih]
      · simp only [List.cons_append, runScript, h, xwriteThen_fail hf]
    | _ => exact ih _

/-- What every element of a sequence keeps, its run keeps, however it ends. -/
theorem runScript_keeps {P : State → Prop} {script : List Act}
    (h : ∀ a ∈ script, ∀ s, P s → P (a.apply s)) {s : State} (hs : P s) :
    P (runScript script s).state := by
  induction script generalizing s with
  | nil => exact hs
  | cons a rest ih =>
    have ha := h a (by simp) s hs
    rcases runScript_cons a rest s with e | ⟨v, rfl, _, e⟩
    · rw [e]; exact ih (fun b hb => h b (by simp [hb])) ha
    · rw [e]; exact ha

/-- With every write answered `OK` a sequence completes with all its elements performed. -/
theorem runScript_allOk {script : List Act} {s : State} (h : s.AllOk (xwrites script)) :
    runScript script s = .completed (applyAll script s) := by
  induction script generalizing s with
  | nil => rfl
  | cons a rest ih =>
    cases a with
    | xwrite v =>
      rw [runScript, xwriteThen_ok h.head]
      exact ih (h.tail v)
    | _ => exact ih h

/-- With the write after `k` successful ones answered `FAIL` a sequence stops there: what stands before that
write was performed, the write was made, nothing after it was (R81, R156). -/
theorem runScript_failsAt {script : List Act} {s : State} {k : Nat} (hk : k < xwrites script)
    (h : s.FailsAt k) :
    ∃ pre v post, script = pre ++ .xwrite v :: post ∧ xwrites pre = k ∧
      runScript script s = .failed ((applyAll pre s).busWrite v) := by
  induction script generalizing s k with
  | nil => simp [xwrites] at hk
  | cons a rest ih =>
    have other : ∀ a : Act, xwrites (a :: rest) = xwrites rest → xwrites [a] = 0 →
        runScript (a :: rest) s = runScript rest (a.apply s) → (a.apply s).answerAt = s.answerAt →
        k < xwrites (a :: rest) → ∃ pre v post, a :: rest = pre ++ .xwrite v :: post ∧
          xwrites pre = k ∧ runScript (a :: rest) s = .failed ((applyAll pre s).busWrite v) := by
      intro a h₁ h₂ h₃ h₄ hk
      have hf : (a.apply s).FailsAt k := by
        simpa [State.FailsAt, State.AllOk, h₄] using h
      obtain ⟨pre, v, post, e₁, e₂, e₃⟩ := ih (by omega) hf
      refine ⟨a :: pre, v, post, by simp [e₁], ?_, by rw [h₃, e₃]; rfl⟩
      rw [show a :: pre = [a] ++ pre from rfl, xwrites_append, h₂, e₂, Nat.zero_add]
    cases a with
    | xwrite v =>
      cases k with
      | zero =>
        refine ⟨[], v, rest, rfl, rfl, ?_⟩
        rw [runScript, xwriteThen_fail (by rw [State.nextAnswer_eq]; exact h.2)]
        rfl
      | succ k =>
        have hf : (s.busWrite v).FailsAt k :=
          ⟨State.AllOk.tail h.1 v, by simpa using h.2⟩
        obtain ⟨pre, w, post, e₁, e₂, e₃⟩ := ih (by simp [xwrites] at hk; omega) hf
        refine ⟨.xwrite v :: pre, w, post, by simp [e₁], by simp [xwrites, e₂], ?_⟩
        rw [runScript, xwriteThen_ok (State.AllOk.head h.1), e₃]
        rfl
    | delay us => exact other _ rfl rfl rfl rfl hk
    | setReady b => exact other _ rfl rfl rfl rfl hk
    | setErr b => exact other _ rfl rfl rfl rfl hk
    | setBl b => exact other _ rfl rfl rfl rfl hk
    | setDctl b => exact other _ rfl rfl rfl rfl hk
    | setEmode b => exact other _ rfl rfl rfl rfl hk
    | switch4 => exact other _ rfl rfl rfl rfl hk

/-- Either the first `n` writes to come succeed, or there is a first one among them that fails. -/
theorem State.allOk_or_failsAt (s : State) (n : Nat) : s.AllOk n ∨ ∃ k < n, s.FailsAt k := by
  induction n with
  | zero => exact .inl fun k hk => absurd hk (by omega)
  | succ n ih =>
    rcases ih with h | ⟨k, hk, h⟩
    · cases ha : s.answerAt n with
      | ok =>
        refine .inl fun k hk => ?_
        rcases Nat.lt_succ_iff_lt_or_eq.mp hk with hk | rfl
        · exact h k hk
        · exact ha
      | fail => exact .inr ⟨n, by omega, h, ha⟩
    · exact .inr ⟨k, by omega, h⟩

/-- What a sequence with every write answered `OK` leaves in the trace and takes from the transport. -/
theorem applyAll_allOk {script : List Act} {s : State} (h : s.AllOk (xwrites script)) :
    (applyAll script s).trace = s.trace ++ script.filterMap (Act.okEvent s.devAddr) ∧
    (applyAll script s).answers = s.answers.drop (xwrites script) ∧
    (applyAll script s).draws = s.draws + xwrites script := by
  induction script generalizing s with
  | nil => simp [xwrites]
  | cons a rest ih =>
    cases a with
    | xwrite v =>
      obtain ⟨h₁, h₂, h₃⟩ := ih (h.tail v)
      simp only [applyAll_cons, Act.apply, h₁, h₂, h₃, xwrites, List.filterMap_cons, Act.okEvent]
      refine ⟨by simp [h.head, Config.regPtr], by simp [Nat.add_comm], by simp; omega⟩
    | delay us =>
      obtain ⟨h₁, h₂, h₃⟩ := ih (s := s.logDelay us) h
      simp only [applyAll_cons, Act.apply, h₁, h₂, h₃]
      simp [xwrites, Act.okEvent]
    | setReady b => exact ih (s := s.setReady b) h
    | setErr b => exact ih (s := s.setErr b) h
    | setBl b => exact ih (s := s.setBl b) h
    | setDctl v => exact ih (s := s.setDctl v) h
    | setEmode v => exact ih (s := s.setEmode v) h
    | switch4 => exact ih (s := s.switch4) h

/-- What the controller latched by the end of a sequence with every write answered `OK`, and what the
expander's outputs then are: the last value written (R36, R37). -/
theorem applyAll_latches {script : List Act} {s : State} (h : s.AllOk (xwrites script)) :
    (applyAll script s).latches =
        s.latches ++ latchEvents (s.xout :: Trace.okValues (script.filterMap (Act.okEvent s.devAddr))) ∧
      some (applyAll script s).xout =
        (s.xout :: Trace.okValues (script.filterMap (Act.okEvent s.devAddr))).getLast? := by
  induction script generalizing s with
  | nil => simp [latchEvents]
  | cons a rest ih =>
    cases a with
    | xwrite v =>
      obtain ⟨h₁, h₂⟩ := ih (h.tail v)
      have hst : s.stored v = v := by simp [State.stored, h.head]
      simp only [applyAll_cons, Act.apply, h₁, h₂, State.busWrite_xout, State.busWrite_latches,
        State.busWrite_devAddr, hst, List.filterMap_cons, Act.okEvent, Trace.okValues_write_ok]
      refine ⟨?_, by rw [List.getLast?_cons_cons]⟩
      rw [List.append_assoc]
      exact congrArg _ (latchEvents_append (xs := [_, _]) rfl _).symm
    | delay us => exact ih (s := s.logDelay us) h
    | setReady b => exact ih (s := s.setReady b) h
    | setErr b => exact ih (s := s.setErr b) h
    | setBl b => exact ih (s := s.setBl b) h
    | setDctl v => exact ih (s := s.setDctl v) h
    | setEmode v => exact ih (s := s.setEmode v) h
    | switch4 => exact ih (s := s.switch4) h

/-- The expander's register space after a sequence with every write answered `OK`: its last value stored, if
it wrote any (R36). -/
theorem applyAll_expander {script : List Act} {s : State} (h : s.AllOk (xwrites script)) :
    (applyAll script s).expander =
      ((Trace.okValues (script.filterMap (Act.okEvent s.devAddr))).getLast?).elim s.expander
        (Memory.write s.expander 0) := by
  induction script generalizing s with
  | nil => rfl
  | cons a rest ih =>
    cases a with
    | xwrite v =>
      have hst : s.stored v = v := by simp [State.stored, h.head]
      rw [applyAll_cons, Act.apply, ih (h.tail v)]
      simp only [State.busWrite_devAddr, State.busWrite_expander, hst, List.filterMap_cons, Act.okEvent,
        Trace.okValues_write_ok, List.getLast?_cons, Config.regPtr]
      cases (Trace.okValues (rest.filterMap (Act.okEvent s.devAddr))).getLast? <;> simp
    | delay us => exact ih (s := s.logDelay us) h
    | setReady b => exact ih (s := s.setReady b) h
    | setErr b => exact ih (s := s.setErr b) h
    | setBl b => exact ih (s := s.setBl b) h
    | setDctl v => exact ih (s := s.setDctl v) h
    | setEmode v => exact ih (s := s.setEmode v) h
    | switch4 => exact ih (s := s.switch4) h

/-- What no sequence touches, however it ends: the straps, the command port, the count of operations and the
responses (R15, R18). -/
theorem runScript_frame (script : List Act) (s : State) :
    let t := (runScript script s).state
    t.devAddr = s.devAddr ∧ t.blInit = s.blInit ∧ t.program = s.program ∧ t.opi = s.opi ∧
      t.responses = s.responses ∧
      ∀ a, a ≠ 0 → Memory.read t.expander a = Memory.read s.expander a := by
  refine runScript_keeps (P := fun t => t.devAddr = s.devAddr ∧ t.blInit = s.blInit ∧
    t.program = s.program ∧ t.opi = s.opi ∧ t.responses = s.responses ∧
    ∀ a, a ≠ 0 → Memory.read t.expander a = Memory.read s.expander a) ?_ (by simp)
  intro a _ t ht
  cases a with
  | xwrite v =>
    refine ⟨ht.1, ht.2.1, ht.2.2.1, ht.2.2.2.1, ht.2.2.2.2.1, fun b hb => ?_⟩
    rw [← ht.2.2.2.2.2 b hb]
    exact Memory.read_write_other _ _ (by simpa [Config.regPtr] using hb)
  | _ => exact ht

/-- The trace only grows (R42). -/
theorem runScript_trace (script : List Act) (s : State) :
    s.trace <+: (runScript script s).state.trace := by
  refine runScript_keeps (P := fun t => s.trace <+: t.trace) ?_ (List.prefix_refl _)
  intro a _ t ht
  cases a with
  | xwrite v => exact ht.trans (List.prefix_append _ _)
  | delay us => exact ht.trans (List.prefix_append _ _)
  | _ => exact ht

/-- Where the pairing of nibbles starts moves at the 4-bit switch alone (R37). -/
theorem runScript_pairedFrom {script : List Act} (h : Act.switch4 ∉ script) (s : State) :
    (runScript script s).state.pairedFrom = s.pairedFrom := by
  refine runScript_keeps (P := fun t => t.pairedFrom = s.pairedFrom) ?_ rfl
  intro a ha t ht
  cases a with
  | switch4 => exact absurd ha h
  | _ => exact ht

/-- The controller's latch events are only added to (R37). -/
theorem runScript_latches (script : List Act) (s : State) :
    s.latches <+: (runScript script s).state.latches := by
  refine runScript_keeps (P := fun t => s.latches <+: t.latches) ?_ (List.prefix_refl _)
  intro a _ t ht
  cases a with
  | xwrite v => exact ht.trans (List.prefix_append _ _)
  | _ => exact ht

/-! ## The end of an operation -/

/-- An operation whose writes are all answered `OK` ends `OK` with its whole sequence performed. -/
theorem State.perform_allOk {script : List Act} {s : State} (h : s.AllOk (xwrites script)) :
    s.perform script = (applyAll script s).respond .ok := by
  simp [State.perform, runScript_allOk h]

/-- An operation one of whose writes fails ends with `TRANSPORT_ERR` at that write (R151). -/
theorem State.perform_failsAt {script : List Act} {s : State} {k : Nat} (hk : k < xwrites script)
    (h : s.FailsAt k) :
    ∃ pre v post, script = pre ++ .xwrite v :: post ∧ xwrites pre = k ∧
      s.perform script = ((applyAll pre s).busWrite v).raise .transportErr := by
  obtain ⟨pre, v, post, h₁, h₂, h₃⟩ := runScript_failsAt hk h
  exact ⟨pre, v, post, h₁, h₂, by simp [State.perform, h₃]⟩

/-- What keeps through every element of a sequence, through the error bit and through the response, an
operation keeps. -/
theorem State.perform_keeps {P : State → Prop} {script : List Act}
    (h : ∀ a ∈ script, ∀ s, P s → P (a.apply s)) (he : ∀ s, P s → P (s.setErr true))
    (hr : ∀ s c, P s → P (s.respond c)) {s : State} (hs : P s) : P (s.perform script) := by
  have := runScript_keeps h hs
  unfold State.perform
  cases hrun : runScript script s with
  | completed t => rw [hrun] at this; exact hr _ _ this
  | failed t => rw [hrun] at this; exact hr _ _ (he _ this)

theorem State.raise_transportErr (s : State) :
    s.raise .transportErr = (s.setErr true).respond .transportErr := rfl

/-- A fault other than `TransportError` turns the operation away. -/
theorem State.raise_other (s : State) {c : ResponseCode} (h : c ≠ .transportErr) :
    s.raise c = s.turnedAway c := by
  cases c <;> first | rfl | exact absurd rfl h

theorem State.whenReady_of_ready {s : State} (h : s.ready = true) (body : State → State) :
    s.whenReady body = body s := by
  simp [State.whenReady, h]

theorem State.whenReady_of_not_ready {s : State} (h : s.ready = false) (body : State → State) :
    s.whenReady body = s.turnedAway .notReady := by
  simp [State.whenReady, h, State.raise, State.respond, State.turnedAway]

end Sys2Proof.Machine
end

