-- ==== Sys2Proof/Laws/Scripts.lean ====
section
/-! SUPPORT. The sequences of the spec: how many writes each makes (R115), and what a nibble and a frame
leave when every write is answered `OK`. -/

namespace Sys2Proof.Machine

/-! ## Bytes -/

/-- The second write of a nibble with its enable bit cleared is the first again (R91). -/
@[simp] theorem pack_falling (n : Nibble) (rs bl : Bool) :
    pack n rs false bl &&& ~~~enMask = pack n rs false bl := by
  revert n rs bl; decide

@[simp] theorem pack_high_nibble (n : Nibble) (rs en bl : Bool) : highNibble (pack n rs en bl) = n := by
  revert n rs en bl; decide

theorem pack_rs (n : Nibble) (rs en bl : Bool) : (pack n rs en bl).getLsbD 0 = rs := by
  revert n rs en bl; decide

theorem pack_rw (n : Nibble) (rs en bl : Bool) : (pack n rs en bl).getLsbD 1 = false := by
  revert n rs en bl; decide

theorem pack_en (n : Nibble) (rs en bl : Bool) : (pack n rs en bl).getLsbD 2 = en := by
  revert n rs en bl; decide

theorem pack_bl (n : Nibble) (rs en bl : Bool) : (pack n rs en bl).getLsbD 3 = bl := by
  revert n rs en bl; decide

/-! The same in simp's normal form. -/

@[simp] theorem pack_rs_getElem (n : Nibble) (rs en bl : Bool) : (pack n rs en bl)[0] = rs :=
  pack_rs n rs en bl

@[simp] theorem pack_rw_getElem (n : Nibble) (rs en bl : Bool) : (pack n rs en bl)[1] = false :=
  pack_rw n rs en bl

@[simp] theorem pack_en_getElem (n : Nibble) (rs en bl : Bool) : (pack n rs en bl)[2] = en :=
  pack_en n rs en bl

@[simp] theorem pack_bl_getElem (n : Nibble) (rs en bl : Bool) : (pack n rs en bl)[3] = bl :=
  pack_bl n rs en bl

/-- Setting the enable bit of a packed byte is packing with the enable bit set (R90 step 2). -/
theorem pack_rising (n : Nibble) (rs bl : Bool) :
    pack n rs false bl ||| enMask = pack n rs true bl := by
  revert n rs bl; decide

/-- The two nibbles of a byte put together again (R101(b)). -/
@[simp] theorem high_append_low (v : Byte) : highNibble v ++ lowNibble v = v := by
  revert v; decide

/-! ## Sequences of writes and delays only -/

/-- `n` writes, the last of them of `v`, and `events` left in the trace, the controller having latched at
their falling edges; nothing else changed. -/
def State.sent (s : State) (events : List Event) (n : Nat) (v : Byte) : State :=
  { s with
    trace := s.trace ++ events
    expander := Memory.write s.expander 0 v
    latches := s.latches ++ latchEvents (s.xout :: Trace.okValues events)
    answers := s.answers.drop n
    draws := s.draws + n }

@[simp] theorem State.sent_xout (s : State) (e : List Event) (n : Nat) (v : Byte) :
    (s.sent e n v).xout = v := by
  simp [State.xout, State.sent, Config.regPtr]

theorem State.sent_sent (s : State) {e : List Event} (e' : List Event) (n n' : Nat) {v : Byte} (v' : Byte)
    (h : (Trace.okValues e).getLast? = some v) :
    (s.sent e n v).sent e' n' v' = s.sent (e ++ e') (n + n') v' := by
  have hl : latchEvents (s.xout :: Trace.okValues (e ++ e')) =
      latchEvents (s.xout :: Trace.okValues e) ++ latchEvents (v :: Trace.okValues e') := by
    rw [Trace.okValues_append, ← List.cons_append, latchEvents_append]
    simp [List.getLast?_cons, h]
  rw [State.sent, State.sent_xout]
  simp only [State.sent, hl, List.append_assoc, Memory.write_write, List.drop_drop, Nat.add_assoc]

@[simp] theorem State.sent_logDelay (s : State) (e : List Event) (n : Nat) (v : Byte) (us : Nat) :
    (s.sent e n v).logDelay us = s.sent (e ++ [.delay us]) n v := by
  simp [State.sent, State.logDelay]

/-- Ending `OK` after writes and delays only. -/
theorem State.sent_respond (s : State) (e : List Event) (n : Nat) (v : Byte) :
    (s.sent e n v).respond .ok = s.endedOk e n v := rfl

theorem State.busWrite_ok {s : State} (h : s.nextAnswer = .ok) (v : Byte) :
    s.busWrite v = s.sent [s.w v] 1 v := by
  simp [State.busWrite, State.sent, State.w, State.stored, h, Config.regPtr]

theorem State.AllOk.sent {s : State} {m n : Nat} (h : s.AllOk (m + n)) (e : List Event) (v : Byte) :
    (s.sent e m v).AllOk n := fun k hk => by
  have := h (m + k) (by omega)
  simpa [State.answerAt, State.sent, Nat.add_assoc] using this

/-! ## `NIBBLE` and `FRAME` -/

@[simp] theorem xwrites_nibble (n : Nibble) (rs bl : Bool) : xwrites (nibble n rs bl) = 3 := rfl

@[simp] theorem xwrites_frame (v : Byte) (rs bl : Bool) : xwrites (frame v rs bl) = 6 := rfl

/-- A successful nibble transmission (R90). -/
theorem applyAll_nibble {s : State} (h : s.AllOk 3) (n : Nibble) (rs bl : Bool) :
    applyAll (nibble n rs bl) s = s.sent (s.nibbleTrace n rs bl) 3 (pack n rs false bl) := by
  have h₁ := h.head
  have h₂ := (h.tail (pack n rs false bl)).head
  have h₃ := ((h.tail (pack n rs false bl)).tail (pack n rs false bl ||| enMask)).head
  simp only [nibble, Config.pulseWrites, if_true, List.cons_append, List.nil_append, applyAll_cons,
    applyAll_nil, Act.apply, pack_falling]
  rw [State.busWrite_ok h₁] at h₂ h₃ ⊢
  rw [State.busWrite_ok h₂] at h₃ ⊢
  rw [State.sent_sent _ _ _ _ _ rfl] at h₃ ⊢
  rw [State.sent_logDelay, State.busWrite_ok, State.sent_sent _ _ _ _ _ rfl, State.sent_logDelay]
  · rfl
  · simpa [State.nextAnswer, State.sent] using h₃

/-- A successful frame (R100). -/
theorem applyAll_frame {s : State} (h : s.AllOk 6) (v : Byte) (rs bl : Bool) :
    applyAll (frame v rs bl) s = s.sent (s.frameTrace v rs bl) 6 (pack (lowNibble v) rs false bl) := by
  rw [frame, applyAll_append, applyAll_nibble (h.mono (by omega)), applyAll_nibble (h.sent _ _),
    State.sent_sent _ _ _ _ _ rfl]
  rfl

/-! ## What the controller latches of a nibble and of a frame (R91, R101) -/

/-- A nibble transmission is one latch event, and leaves the enable line low. -/
theorem latchEvents_nibble (s : State) (n : Nibble) (rs bl : Bool) (rest : List Byte) :
    latchEvents (Trace.okValues (s.nibbleTrace n rs bl) ++ rest) = (rs, n) :: latchEvents rest := by
  have high : ∀ (n : Nibble) (rs bl : Bool), (pack n rs false bl ||| 4).getLsbD 2 = true ∧
      (pack n rs false bl ||| 4).getLsbD 0 = rs ∧ highNibble (pack n rs false bl ||| 4) = n := by decide
  obtain ⟨h₁, h₂, h₃⟩ := high n rs bl
  simp only [State.nibbleTrace, State.w, Trace.okValues_write_ok, Trace.okValues_delay, Trace.okValues_nil,
    List.cons_append, List.nil_append]
  rw [latchEvents_of_low (pack_en n rs false bl)]
  simp only [latchEvents, h₁, h₂, h₃, pack_en, Bool.not_false, Bool.and_self, if_true]
  rw [latchEvents_of_low (pack_en n rs false bl)]

/-- A frame is two latch events, the high nibble first. -/
theorem latchEvents_frame (s : State) (v : Byte) (rs bl : Bool) (rest : List Byte) :
    latchEvents (Trace.okValues (s.frameTrace v rs bl) ++ rest) =
      (rs, highNibble v) :: (rs, lowNibble v) :: latchEvents rest := by
  rw [State.frameTrace, Trace.okValues_append, List.append_assoc, latchEvents_nibble, latchEvents_nibble]

/-- The two latch events of a frame pair up into its byte (R101(b)). -/
@[simp] theorem Trace.pairUp_frame (rs : Bool) (v : Byte) (rest : List (Bool × Nibble)) :
    Trace.pairUp ((rs, highNibble v) :: (rs, lowNibble v) :: rest) = (rs, v) :: Trace.pairUp rest := by
  simp only [Trace.pairUp, if_true, high_append_low]

/-- After whole pairs the pairing starts anew. -/
theorem Trace.pairUp_append (a b : List (Bool × Nibble)) (h : a.length = 2 * (Trace.pairUp a).length) :
    Trace.pairUp (a ++ b) = Trace.pairUp a ++ Trace.pairUp b := by
  induction a using Trace.pairUp.induct with
  | case1 rs hi lo rest ih =>
    simp only [Trace.pairUp, if_true, List.length_cons] at h
    simp only [List.cons_append, Trace.pairUp, if_true, ih (by omega)]
  | case2 rs hi rs' lo rest hne => simp [Trace.pairUp, hne] at h
  | case3 x hx =>
    match x, hx with
    | [], _ => rfl
    | [_], _ => simp [Trace.pairUp] at h
    | (rs, hi) :: (rs', lo) :: rest, hx => exact absurd rfl (hx rs hi rs' lo rest)

/-- More nibbles latched with the pairing left where it started: the bytes received so far stand, and those of
the new nibbles follow. -/
theorem State.received_append {s t : State} {sent : List (Bool × Nibble)}
    (hf : t.pairedFrom = s.pairedFrom) (hl : t.latches = s.latches ++ sent)
    (hle : s.pairedFrom ≤ s.latches.length) (hw : s.sinceSwitch.length = 2 * s.received.length) :
    t.sinceSwitch = s.sinceSwitch ++ sent ∧ t.received = s.received ++ Trace.pairUp sent := by
  have h : t.sinceSwitch = s.sinceSwitch ++ sent := by
    rw [State.sinceSwitch, hf, hl, List.drop_append_of_le_length hle]; rfl
  exact ⟨h, by rw [State.received, h, Trace.pairUp_append _ _ hw]; rfl⟩

/-! ## The operations -/

@[simp] theorem xwrites_clearScript (bl : Bool) : xwrites (clearScript bl) = 6 := rfl

@[simp] theorem xwrites_backlightScript (bl : Bool) : xwrites (backlightScript bl) = 1 := rfl

@[simp] theorem xwrites_displayScript (d : Byte) (bl : Bool) : xwrites (displayScript d bl) = 6 := rfl

@[simp] theorem xwrites_entryModeScript (e : Byte) (bl : Bool) : xwrites (entryModeScript e bl) = 6 := rfl

/-- The 42 writes of `INIT` (R142). -/
@[simp] theorem xwrites_initScript (bl : Bool) : xwrites (initScript bl) = 42 := rfl

end Sys2Proof.Machine
end

