-- ==== Sys2Proof/Laws/Exec.lean ====
section
/-! SUPPORT. What one operation can do: every operation answers a next state, which is the operation turned
away or its one sequence performed. -/

namespace Sys2Proof.Machine

/-- The sequence an operation performs in a state, once the gate and the operand check are passed; `none`
where the operand check of `SET_CURSOR` fails (R104). -/
def scriptOf : Instr → State → Option (List Act)
  | .init, s => some (initScript s.blInit)
  | .print cp, s => some (frame (truncateCodePoint cp) true s.bl)
  | .setCursor col row, s =>
    (cursorAddress col row).map fun a => frame (Config.cmdSetDdram ||| a) false s.bl
  | .clear, s => some (clearScript s.bl)
  | .scrollLeft, s =>
    some (frame (Config.cmdShift ||| Config.shiftDisplay ||| Config.shiftLeft) false s.bl)
  | .scrollRight, s =>
    some (frame (Config.cmdShift ||| Config.shiftDisplay ||| Config.shiftRight) false s.bl)
  | .backlight, _ => some (backlightScript true)
  | .noBacklight, _ => some (backlightScript false)
  | .display, s => some (displayScript (dctlDisplayOn s.dctl) s.bl)
  | .noDisplay, s => some (displayScript (dctlDisplayOff s.dctl) s.bl)
  | .leftToRight, s => some (entryModeScript (emodeLeft s.emode) s.bl)
  | .rightToLeft, s => some (entryModeScript (emodeRight s.emode) s.bl)

/-- The 4-bit switch is in the sequence of `INIT` alone. -/
theorem switch4_not_mem {i : Instr} {s : State} {script : List Act} (hi : i ≠ .init)
    (h : scriptOf i s = some script) : Act.switch4 ∉ script := by
  cases i <;> simp only [scriptOf, Option.some.injEq, Option.map_eq_some_iff] at h
  case init => exact absurd rfl hi
  case setCursor => obtain ⟨a, _, rfl⟩ := h; simp [frame, nibble, Config.pulseWrites]
  all_goals subst h; simp [clearScript, backlightScript, displayScript, entryModeScript, frame, nibble,
    Config.pulseWrites]

/-- The state an operation leads to. -/
def outcome (i : Instr) (s : State) : State :=
  if i ≠ .init ∧ s.ready = false then s.turnedAway .notReady
  else match scriptOf i s with
    | none => s.turnedAway .operandFault
    | some script => s.perform script

/-- Every operation answers a next state, and which one (R116). -/
theorem exec_eq (i : Instr) (s : State) : exec i s = .next (outcome i s) := by
  cases i with
  | init => simp [exec, execInit, outcome, scriptOf]
  | setCursor col row =>
    cases h : s.ready <;> cases ha : cursorAddress col row <;>
      simp [exec, execSetCursor, setCursorBody, outcome, scriptOf, State.whenReady, h, ha, State.raise,
        State.respond, State.turnedAway]
  | _ =>
    cases h : s.ready <;>
      simp [exec, outcome, scriptOf, State.whenReady, h, State.raise, State.respond, State.turnedAway,
        execPrint, printBody, execClear, execScrollLeft, execScrollRight, execBacklight,
        execNoBacklight, execDisplay, execNoDisplay, execLeftToRight, execRightToLeft]

/-- What an operation can do: it is turned away before it is ready, `SET_CURSOR` is turned away for its
operands, or the operation's sequence is performed. -/
theorem exec_cases {i : Instr} {s t : State} (h : exec i s = .next t) :
    (i ≠ .init ∧ s.ready = false ∧ t = s.turnedAway .notReady) ∨
    ((i = .init ∨ s.ready = true) ∧
      ((∃ col row, i = .setCursor col row ∧ cursorAddress col row = none ∧
          t = s.turnedAway .operandFault) ∨
       ∃ script, scriptOf i s = some script ∧ t = s.perform script)) := by
  rw [exec_eq] at h
  injection h with h
  subst h
  by_cases hg : i ≠ .init ∧ s.ready = false
  · exact .inl ⟨hg.1, hg.2, by simp [outcome, hg]⟩
  · have hr : i = .init ∨ s.ready = true := by
      by_cases hi : i = .init
      · exact .inl hi
      · exact .inr (by simpa [hi] using hg)
    refine .inr ⟨hr, ?_⟩
    cases hs : scriptOf i s with
    | none =>
      refine .inl ?_
      cases i <;> simp [scriptOf] at hs
      exact ⟨_, _, rfl, hs, by simp only [outcome, if_neg hg]; simp [scriptOf, hs]⟩
    | some script => exact .inr ⟨script, rfl, by simp only [outcome, if_neg hg, hs]⟩

/-- What being turned away, the elements of the operation's sequence, the error bit and the response all
keep, the operation keeps. -/
theorem exec_keeps {P : State → Prop} {i : Instr} {s t : State} (h : exec i s = .next t) (hs : P s)
    (ha : ∀ script, scriptOf i s = some script → ∀ a ∈ script, ∀ s, P s → P (a.apply s))
    (he : ∀ s, P s → P (s.setErr true)) (hr : ∀ s c, P s → P (s.respond c)) : P t := by
  rcases exec_cases h with ⟨_, _, rfl⟩ | ⟨_, ⟨_, _, _, _, rfl⟩ | ⟨script, hsc, rfl⟩⟩
  · exact hr _ _ hs
  · exact hr _ _ hs
  · exact State.perform_keeps (ha script hsc) he hr hs

/-- No operation but `INIT` moves the place where the pairing of nibbles starts. -/
theorem exec_pairedFrom {i : Instr} {s t : State} (hi : i ≠ .init) (h : exec i s = .next t) :
    t.pairedFrom = s.pairedFrom := by
  refine exec_keeps (P := fun t => t.pairedFrom = s.pairedFrom) h rfl ?_ (fun _ h => h) fun _ _ h => h
  intro script hs a ha t ht
  cases a with
  | switch4 => exact absurd ha (switch4_not_mem hi hs)
  | _ => exact ht

/-- The presented word fetched after `withFetchWord` is the word placed (R18). -/
@[simp] theorem State.fetch_withFetchWord (s : State) (n w : Nat) :
    (s.withFetchWord n w).fetch = some (BitVec.ofNat 32 w) := by
  have h : (s.program.take s.opi ++ List.replicate (s.opi - s.program.length) 0).length = s.opi := by
    simp; omega
  unfold State.fetch
  rw [State.withFetchWord_program, State.withFetchWord_opi, List.getElem?_append_right (by omega), h]
  simp

end Sys2Proof.Machine
end

