-- ==== Sys2Proof/Laws/Events.lean ====
section
/-! SUPPORT. The events an operation adds to the trace: all those of its sequence, or those up to its first
failing write (R156). -/

namespace Sys2Proof.Machine

/-- The events of a sequence none of whose writes fails. -/
def okEvents (dev : BitVec 7) (script : List Act) : List Event := script.filterMap (Act.okEvent dev)

@[simp] theorem okEvents_append (dev : BitVec 7) (a b : List Act) :
    okEvents dev (a ++ b) = okEvents dev a ++ okEvents dev b := by
  simp [okEvents]

@[simp] theorem okEvents_xwrite (dev : BitVec 7) (v : Byte) (rest : List Act) :
    okEvents dev (.xwrite v :: rest) = .write dev 0x00 v .ok :: okEvents dev rest := rfl

@[simp] theorem okEvents_delay (dev : BitVec 7) (us : Nat) (rest : List Act) :
    okEvents dev (.delay us :: rest) = .delay us :: okEvents dev rest := rfl

@[simp] theorem okEvents_setReady (dev : BitVec 7) (b : Bool) (rest : List Act) :
    okEvents dev (.setReady b :: rest) = okEvents dev rest := rfl

@[simp] theorem okEvents_setErr (dev : BitVec 7) (b : Bool) (rest : List Act) :
    okEvents dev (.setErr b :: rest) = okEvents dev rest := rfl

@[simp] theorem okEvents_setBl (dev : BitVec 7) (b : Bool) (rest : List Act) :
    okEvents dev (.setBl b :: rest) = okEvents dev rest := rfl

@[simp] theorem okEvents_setDctl (dev : BitVec 7) (v : Byte) (rest : List Act) :
    okEvents dev (.setDctl v :: rest) = okEvents dev rest := rfl

@[simp] theorem okEvents_setEmode (dev : BitVec 7) (v : Byte) (rest : List Act) :
    okEvents dev (.setEmode v :: rest) = okEvents dev rest := rfl

@[simp] theorem okEvents_switch4 (dev : BitVec 7) (rest : List Act) :
    okEvents dev (.switch4 :: rest) = okEvents dev rest := rfl

@[simp] theorem okEvents_nil (dev : BitVec 7) : okEvents dev [] = [] := rfl

/-! ## The events of each sequence -/

theorem okEvents_nibble (s : State) (n : Nibble) (rs bl : Bool) :
    okEvents s.devAddr (nibble n rs bl) = s.nibbleTrace n rs bl := by
  simp [nibble, Config.pulseWrites, Config.tPulse, Config.tSettle, State.nibbleTrace, State.w, enMask]
  exact pack_falling n rs bl

theorem okEvents_frame (s : State) (v : Byte) (rs bl : Bool) :
    okEvents s.devAddr (frame v rs bl) = s.frameTrace v rs bl := by
  simp [frame, okEvents_nibble, State.frameTrace]

/-- The events of the sequence of `INIT` are the table of R142. -/
theorem okEvents_init (s : State) (bl : Bool) :
    okEvents s.devAddr (initScript bl) = s.initTrace bl := by
  cases bl <;> rfl

/-! ## The events of an operation -/

/-- How an operation's sequence ends, with the events it leaves: all its writes succeed, or there is a first
one that fails. -/
theorem State.perform_cases (script : List Act) (s : State) :
    (s.AllOk (xwrites script) ∧ s.perform script = (applyAll script s).respond .ok ∧
      (s.perform script).trace = s.trace ++ okEvents s.devAddr script) ∨
    ∃ pre v post, script = pre ++ .xwrite v :: post ∧ s.FailsAt (xwrites pre) ∧
      s.perform script = ((applyAll pre s).busWrite v).raise .transportErr ∧
      (s.perform script).trace =
        s.trace ++ (okEvents s.devAddr pre ++ [.write s.devAddr 0x00 v .fail]) := by
  rcases s.allOk_or_failsAt (xwrites script) with h | ⟨k, hk, h⟩
  · refine .inl ⟨h, State.perform_allOk h, ?_⟩
    rw [State.perform_allOk h]
    exact (applyAll_allOk h).1
  · obtain ⟨pre, v, post, h₁, rfl, h₃⟩ := State.perform_failsAt hk h
    refine .inr ⟨pre, v, post, h₁, h, h₃, ?_⟩
    have hp := applyAll_allOk h.1
    have hd : (applyAll pre s).devAddr = s.devAddr := by
      have := (runScript_frame pre s).1
      rwa [runScript_allOk h.1] at this
    have ha : (applyAll pre s).nextAnswer = .fail := by
      rw [State.nextAnswer_eq]
      simpa [State.answerAt, hp.2.1, hp.2.2] using h.2
    rw [h₃]
    simp only [State.raise, State.respond_trace, State.setErr_trace, State.busWrite_trace, hp.1, ha, hd,
      List.append_assoc]
    rfl

/-- What the controller latched by the end of an operation's sequence, and what the expander's outputs then
are (R36, R37, R47): with no write failed they follow the events, after a failed write they are any value. -/
theorem State.perform_latches (script : List Act) (s : State) :
    (s.AllOk (xwrites script) ∧
      (s.perform script).latches =
        s.latches ++ latchEvents (s.xout :: Trace.okValues (okEvents s.devAddr script)) ∧
      some (s.perform script).xout = (s.xout :: Trace.okValues (okEvents s.devAddr script)).getLast?) ∨
    ∃ pre v post, script = pre ++ .xwrite v :: post ∧ s.FailsAt (xwrites pre) ∧
      (s.perform script).latches =
        s.latches ++ latchEvents (s.xout :: Trace.okValues (okEvents s.devAddr pre) ++
          [(s.perform script).xout]) := by
  rcases s.perform_cases script with ⟨h, e, _⟩ | ⟨pre, v, post, hp, h, e, _⟩
  · exact .inl ⟨h, by rw [e]; exact applyAll_latches h⟩
  · refine .inr ⟨pre, v, post, hp, h, ?_⟩
    obtain ⟨h₁, h₂⟩ := applyAll_latches h.1
    change some _ = (s.xout :: Trace.okValues (okEvents s.devAddr pre)).getLast? at h₂
    rw [e, latchEvents_append h₂.symm, ← List.append_assoc]
    simp only [State.raise, State.respond_latches, State.respond_xout, State.setErr_latches,
      State.setErr_xout, State.busWrite_latches, State.busWrite_xout, h₁]
    rfl

/-- The events an operation adds. -/
theorem exec_events {i : Instr} {s t : State} (h : exec i s = .next t) :
    s.newEvents t = [] ∨
    ∃ script, scriptOf i s = some script ∧
      (s.newEvents t = okEvents s.devAddr script ∨
       ∃ pre v post, script = pre ++ .xwrite v :: post ∧
        s.newEvents t = okEvents s.devAddr pre ++ [.write s.devAddr 0x00 v .fail]) := by
  rcases exec_cases h with ⟨_, _, rfl⟩ | ⟨_, ⟨_, _, _, _, rfl⟩ | ⟨script, hsc, rfl⟩⟩
  · exact .inl (by simp [State.newEvents])
  · exact .inl (by simp [State.newEvents])
  · refine .inr ⟨script, hsc, ?_⟩
    rcases s.perform_cases script with ⟨_, _, ht⟩ | ⟨pre, v, post, hp, _, _, ht⟩
    · exact .inl (by simp [State.newEvents, ht])
    · exact .inr ⟨pre, v, post, hp, by simp [State.newEvents, ht]⟩

/-- What holds of no events at all, of the events of every sequence that completes, and of those cut short at
a failing write whenever it holds of the uncut ones, holds of the events of every operation. -/
theorem exec_events_hold {P : List Event → Prop} {i : Instr} {s t : State} (h : exec i s = .next t)
    (hnil : P []) (hall : ∀ script, scriptOf i s = some script → P (okEvents s.devAddr script))
    (hcut : ∀ es v fs, P (es ++ .write s.devAddr 0x00 v .ok :: fs) →
      P (es ++ [.write s.devAddr 0x00 v .fail])) : P (s.newEvents t) := by
  rcases exec_events h with e | ⟨script, hsc, e | ⟨pre, v, post, hp, e⟩⟩
  · rw [e]; exact hnil
  · rw [e]; exact hall script hsc
  · rw [e]
    refine hcut _ v (okEvents s.devAddr post) ?_
    simpa [hp] using hall script hsc

/-- A step is the presented operation, the illegal word turned away, or idling (R116, R153, R193). -/
theorem step_cases {s t : State} (h : step s = .next t) :
    (s.fetch = none ∧ t = s) ∨
    (∃ w e, s.fetch = some w ∧ decode w = .error e ∧ t = s.turnedAway .illegalOp) ∨
    ∃ w i, s.fetch = some w ∧ decode w = .ok i ∧ exec i s = .next t := by
  unfold step at h
  cases hf : s.fetch with
  | none =>
    simp only [hf, Host.Outcome.next.injEq] at h
    exact .inl ⟨rfl, h.symm⟩
  | some w =>
    simp only [hf] at h
    cases hd : decode w with
    | ok i => simp only [hd] at h; exact .inr (.inr ⟨w, i, rfl, hd, h⟩)
    | error e =>
      simp only [hd, Host.Outcome.next.injEq] at h
      exact .inr (.inl ⟨w, e, rfl, hd, h.symm⟩)

end Sys2Proof.Machine
end

