-- ==== Sys2Proof/Laws/PerInstr.lean ====
section
/-! SUPPORT. The law of the opcode table, one lemma per operation: the word an operation encodes to has, in
the bits its format fixes, its opcode and zeros (R50, R53: the `match` and `mask` columns). -/

namespace Sys2Proof.Laws.TableRow

/-- The encoded word matches the operation's row of R53. -/
def Statement (i : Instr) : Prop :=
  encode i &&& formatMask (format i) = opcode i ++ (0 : BitVec 24)

theorem init : Statement .init := by unfold Statement; decide

theorem print (cp : BitVec 24) : Statement (.print cp) := by
  show ((0x02 : Byte) ++ cp) &&& (0xFF : Byte) ++ (0 : BitVec 24) = (0x02 : Byte) ++ (0 : BitVec 24)
  rw [BitVec.and_append]; simp

theorem setCursor (col row : Byte) : Statement (.setCursor col row) := by
  show ((0x03 : Byte) ++ ((0x00 : Byte) ++ row ++ col)) &&& 0xFFFF0000 = (0x03 : Byte) ++ (0 : BitVec 24)
  have h : (0xFFFF0000 : Word) = (0xFF : Byte) ++ ((0xFF : Byte) ++ (0 : Byte) ++ (0 : Byte)) := by decide
  rw [h, BitVec.and_append, BitVec.and_append, BitVec.and_append]; simp

theorem clear : Statement .clear := by unfold Statement; decide

theorem scrollLeft : Statement .scrollLeft := by unfold Statement; decide

theorem scrollRight : Statement .scrollRight := by unfold Statement; decide

theorem backlight : Statement .backlight := by unfold Statement; decide

theorem noBacklight : Statement .noBacklight := by unfold Statement; decide

theorem display : Statement .display := by unfold Statement; decide

theorem noDisplay : Statement .noDisplay := by unfold Statement; decide

theorem leftToRight : Statement .leftToRight := by unfold Statement; decide

theorem rightToLeft : Statement .rightToLeft := by unfold Statement; decide

end Sys2Proof.Laws.TableRow
end

