-- ==== Sys2Proof/Laws/Words.lean ====
section
/-! SUPPORT. How a command word and its argument field split into fields and go together again (R50). -/

namespace Sys2Proof

/-- The fields of three bytes put together. -/
theorem extract_low_byte (z row col : Byte) : (z ++ row ++ col).extractLsb' 0 8 = col := by
  rw [BitVec.extractLsb'_append_eq_of_add_le (by omega)]; simp

theorem extract_middle_byte (z row col : Byte) : (z ++ row ++ col).extractLsb' 8 8 = row := by
  rw [BitVec.extractLsb'_append_eq_of_le (by omega),
    BitVec.extractLsb'_append_eq_of_add_le (by omega)]
  simp

theorem extract_high_byte (z row col : Byte) : (z ++ row ++ col).extractLsb' 16 8 = z := by
  rw [BitVec.extractLsb'_append_eq_of_le (by omega), BitVec.extractLsb'_append_eq_of_le (by omega)]
  simp

/-- The opcode field of opcode and argument put together. -/
theorem extract_opcode (op : Byte) (arg : BitVec 24) : (op ++ arg).extractLsb' 24 8 = op := by
  rw [BitVec.extractLsb'_append_eq_of_le (by omega)]; simp

/-- The argument field of opcode and argument put together. -/
theorem extract_argument (op : Byte) (arg : BitVec 24) : (op ++ arg).extractLsb' 0 24 = arg := by
  rw [BitVec.extractLsb'_append_eq_of_add_le (by omega)]; simp

/-- A word is its opcode and its argument put together. -/
theorem word_split (w : Word) : w = w.extractLsb' 24 8 ++ w.extractLsb' 0 24 := by
  apply BitVec.eq_of_getLsbD_eq
  intro j hj
  rw [BitVec.getLsbD_append]
  simp only [BitVec.getLsbD_extractLsb']
  by_cases h : j < 24
  · simp [h]
  · have h₂ : j - 24 < 8 := by omega
    have h₃ : 24 + (j - 24) = j := by omega
    simp [h, h₂, h₃]

/-- An argument field is its three bytes put together. -/
theorem argument_split (a : BitVec 24) :
    a = a.extractLsb' 16 8 ++ a.extractLsb' 8 8 ++ a.extractLsb' 0 8 := by
  apply BitVec.eq_of_getLsbD_eq
  intro j hj
  rw [BitVec.getLsbD_append, BitVec.getLsbD_append]
  simp only [BitVec.getLsbD_extractLsb']
  by_cases h : j < 8
  · simp [h]
  · by_cases h₂ : j - 8 < 8
    · simp [h, h₂]; congr 1; omega
    · have : j - 8 - 8 < 8 := by omega
      simp [h, h₂, this]; congr 1; omega

/-! ## What decoding can do -/

/-- Decoding by the opcode: one case per opcode of R52, and the illegal opcodes. -/
theorem decodeFields_cases (op : Byte) (arg : BitVec 24) :
    (op = 1 ∧ decodeFields op arg = decodeN arg .init) ∨
    (op = 2 ∧ decodeFields op arg = .ok (.print arg)) ∨
    (op = 3 ∧ decodeFields op arg = decodeC arg) ∨
    (op = 4 ∧ decodeFields op arg = decodeN arg .clear) ∨
    (op = 5 ∧ decodeFields op arg = decodeN arg .scrollLeft) ∨
    (op = 6 ∧ decodeFields op arg = decodeN arg .scrollRight) ∨
    (op = 7 ∧ decodeFields op arg = decodeN arg .backlight) ∨
    (op = 8 ∧ decodeFields op arg = decodeN arg .noBacklight) ∨
    (op = 9 ∧ decodeFields op arg = decodeN arg .display) ∨
    (op = 10 ∧ decodeFields op arg = decodeN arg .noDisplay) ∨
    (op = 11 ∧ decodeFields op arg = decodeN arg .leftToRight) ∨
    (op = 12 ∧ decodeFields op arg = decodeN arg .rightToLeft) ∨
    (decodeFields op arg = .error .noSuchOpcode ∧
      ∀ n : Nat, 1 ≤ n → n ≤ 12 → op ≠ BitVec.ofNat 8 n) := by
  by_cases h1 : op = 1
  · exact .inl ⟨h1, by subst h1; rfl⟩
  by_cases h2 : op = 2
  · exact .inr (.inl ⟨h2, by subst h2; rfl⟩)
  by_cases h3 : op = 3
  · exact .inr (.inr (.inl ⟨h3, by subst h3; rfl⟩))
  by_cases h4 : op = 4
  · exact .inr (.inr (.inr (.inl ⟨h4, by subst h4; rfl⟩)))
  by_cases h5 : op = 5
  · exact .inr (.inr (.inr (.inr (.inl ⟨h5, by subst h5; rfl⟩))))
  by_cases h6 : op = 6
  · exact .inr (.inr (.inr (.inr (.inr (.inl ⟨h6, by subst h6; rfl⟩)))))
  by_cases h7 : op = 7
  · exact .inr (.inr (.inr (.inr (.inr (.inr (.inl ⟨h7, by subst h7; rfl⟩))))))
  by_cases h8 : op = 8
  · exact .inr (.inr (.inr (.inr (.inr (.inr (.inr (.inl ⟨h8, by subst h8; rfl⟩)))))))
  by_cases h9 : op = 9
  · exact .inr (.inr (.inr (.inr (.inr (.inr (.inr (.inr (.inl ⟨h9, by subst h9; rfl⟩))))))))
  by_cases h10 : op = 10
  · exact .inr (.inr (.inr (.inr (.inr (.inr (.inr (.inr (.inr (.inl ⟨h10, by subst h10; rfl⟩)))))))))
  by_cases h11 : op = 11
  · exact .inr (.inr (.inr (.inr (.inr (.inr (.inr (.inr (.inr (.inr (.inl ⟨h11, by subst h11; rfl⟩))))))))))
  by_cases h12 : op = 12
  · exact .inr (.inr (.inr (.inr (.inr (.inr (.inr (.inr (.inr (.inr (.inr (.inl ⟨h12, by subst h12; rfl⟩)))))))))))
  refine .inr (.inr (.inr (.inr (.inr (.inr (.inr (.inr (.inr (.inr (.inr (.inr ⟨?_, fun n hn hm => ?_⟩)))))))))))
  · unfold decodeFields
    rw [if_neg h1, if_neg h2, if_neg h3, if_neg h4, if_neg h5, if_neg h6, if_neg h7, if_neg h8, if_neg h9, if_neg h10, if_neg h11, if_neg h12]
  · interval_cases n <;> assumption

/-- What a format-N operation decodes to. -/
theorem decodeN_ok {arg : BitVec 24} {i j : Instr} (h : decodeN arg i = .ok j) : arg = 0 ∧ j = i := by
  unfold decodeN at h
  split at h
  · injection h with h; exact ⟨by assumption, h.symm⟩
  · cases h

/-- What a format-C operation decodes to. -/
theorem decodeC_ok {arg : BitVec 24} {j : Instr} (h : decodeC arg = .ok j) :
    arg.extractLsb' 16 8 = 0 ∧ j = .setCursor (arg.extractLsb' 0 8) (arg.extractLsb' 8 8) := by
  unfold decodeC at h
  split at h
  · injection h with h; exact ⟨by assumption, h.symm⟩
  · cases h

end Sys2Proof
end

