-- ==== Sys2Proof/Tests/Slice0.lean ====
section
/-! SUPPORT. Tests against the vectors of spec/95_test_vectors.md, one step each, and a witness for the
hypotheses of every obligation. -/

namespace Sys2Proof.Tests

open Sys2Proof Sys2Proof.Machine

/-! ## Small states -/

/-- `1/0/0/04/02` in the notation of 95_test_vectors.md part 2, the expander's outputs low, the next 42 writes
answered `OK`. -/
def up : State :=
  { State.reset with
    ready := true, bl := false, blInit := false, dctl := 0x04, emode := 0x02
    expander := [(0, 0x00)]
    answers := List.replicate 42 .ok }

/-- The same with the answers of `k` writes `OK` and the next `FAIL`. -/
def upFailing (k : Nat) : State := { up with answers := List.replicate k .ok ++ [.fail] }

/-- Not ready, no error, as after reset, the next 42 writes answered `OK`. -/
def down : State := { up with ready := false, dctl := 0, emode := 0 }

/-- The LCDF with `w` presented next. -/
def presented (s : State) (w : Word) : State := { s with program := [w] }

/-- The trace, the registers and the response code an outcome leaves. -/
def seen : Host.Outcome State Fault Refusal →
    Option (List Event × Registers × Option ResponseCode)
  | .next t => some (t.trace, t.registers, t.lastCode)
  | .fault _ => none
  | .refused _ => none

/-- The values written and the registers an outcome leaves. -/
def bytes : Host.Outcome State Fault Refusal → Option (List Byte × Registers)
  | .next t => some (t.trace.filterMap Event.value, t.registers)
  | .fault _ => none
  | .refused _ => none

/-- `W xx` to the device `0x27`. -/
def w (v : Byte) : Event := .write 0x27 0x00 v .ok

/-- `W xx FAIL`. -/
def wFail (v : Byte) : Event := .write 0x27 0x00 v .fail

/-- The five events of a nibble transmission of 95_test_vectors.md 2.3. -/
def nib (low high : Byte) : List Event := [w low, w high, .delay 1, w low, .delay 50]

/-! ## Well-formedness: what does not fit its field is refused (R50, R63) -/

theorem test_wf_code_point : codePointFits 0xFFFFFF = true ∧ codePointFits 0x1000000 = false := by decide

theorem test_wf_cursor_operand : cursorOperandFits 255 = true ∧ cursorOperandFits 256 = false := by decide

theorem test_wf_every_operation : ∀ i : Instr, i.wellFormed = true := by intro i; cases i <;> rfl

theorem test_wf_source_code_point_too_big : assembleLine "PRINT 0x1000000".toList = none := by decide

theorem test_wf_source_col_too_big : assembleLine "SET_CURSOR 256, 0".toList = none := by decide

theorem test_wf_source_row_too_big : assembleLine "SET_CURSOR 0, 256".toList = none := by decide

/-! ## Decoding, words of 95_test_vectors.md 2.1 -/

theorem test_decode_init : decode 0x01000000 = .ok .init := by decide
theorem test_decode_print : decode 0x020020AC = .ok (.print 0x20AC) := by decide
theorem test_decode_print_top : decode 0x0210FFFF = .ok (.print 0x10FFFF) := by decide
theorem test_decode_set_cursor : decode 0x03000103 = .ok (.setCursor 3 1) := by decide
theorem test_decode_set_cursor_row_4 : decode 0x03000400 = .ok (.setCursor 0 4) := by decide
theorem test_decode_clear : decode 0x04000000 = .ok .clear := by decide
theorem test_decode_scroll_left : decode 0x05000000 = .ok .scrollLeft := by decide
theorem test_decode_scroll_right : decode 0x06000000 = .ok .scrollRight := by decide
theorem test_decode_backlight : decode 0x07000000 = .ok .backlight := by decide
theorem test_decode_no_backlight : decode 0x08000000 = .ok .noBacklight := by decide
theorem test_decode_display : decode 0x09000000 = .ok .display := by decide
theorem test_decode_no_display : decode 0x0A000000 = .ok .noDisplay := by decide
theorem test_decode_left_to_right : decode 0x0B000000 = .ok .leftToRight := by decide
theorem test_decode_right_to_left : decode 0x0C000000 = .ok .rightToLeft := by decide

theorem test_decode_opcode_zero : decode 0x00000000 = .error .noSuchOpcode := by decide
theorem test_decode_opcode_after_last : decode 0x0D000000 = .error .noSuchOpcode := by decide
theorem test_decode_argument_not_zero : decode 0x01800000 = .error .argumentNotZero := by decide
theorem test_decode_cursor_field_not_zero : decode 0x03010000 = .error .cursorFieldNotZero := by decide

theorem test_decode_table_word : decodeTableWord 32 0x03000103 = some (.setCursor 3 1) ∧
    decodeTableWord 32 0xFF000000 = none := by decide

/-! ## Assembler source, lines of 95_test_vectors.md 2.1 and R64 -/

theorem test_asm_init : assembleLine "INIT".toList = some [0x01000000] := by decide
theorem test_asm_print_char : assembleLine "PRINT 'H'".toList = some [0x02000048] := by decide
theorem test_asm_print_hex : assembleLine "PRINT 0x20AC".toList = some [0x020020AC] := by decide
theorem test_asm_set_cursor : assembleLine "SET_CURSOR 3, 1".toList = some [0x03000103] := by decide
theorem test_asm_right_to_left : assembleLine "RIGHT_TO_LEFT".toList = some [0x0C000000] := by decide
theorem test_asm_print_str : assembleLine "PRINT_STR \"Hi\"".toList = some [0x02000048, 0x02000069] := by
  decide
theorem test_asm_print_str_empty : assembleLine "PRINT_STR \"\"".toList = some [] := by decide
theorem test_asm_unknown : assembleLine "HOME".toList = none := by decide

/-! ## Packing (V7, 95_test_vectors.md 2.2) -/

theorem test_pack : pack 0xA true true true = 0xAD ∧ pack 0x3 false true false = 0x34 ∧
    pack 0x0 true false false = 0x01 ∧ pack 0x0 false false true = 0x08 := by decide

/-! ## Single operations (95_test_vectors.md 2.4 to 2.8) -/

/-- 2.7: the whole trace of `INIT`, `BL_INIT = 0`. -/
theorem test_init : seen (exec .init down) = some
    ([.delay 40000] ++ nib 0x30 0x34 ++ [.delay 4500] ++ nib 0x30 0x34 ++ [.delay 4500] ++
      nib 0x30 0x34 ++ [.delay 150] ++ nib 0x20 0x24 ++
      nib 0x20 0x24 ++ nib 0x80 0x84 ++ nib 0x00 0x04 ++ nib 0xC0 0xC4 ++
      nib 0x00 0x04 ++ nib 0x10 0x14 ++ [.delay 2000] ++ nib 0x00 0x04 ++ nib 0x60 0x64 ++
      nib 0x00 0x04 ++ nib 0x20 0x24 ++ [.delay 2000],
     ⟨true, false, false, 0x04, 0x02⟩, some .ok) := by decide

/-- 2.7: `INIT` failing at its 22nd write leaves `DCTL = 04` and the `EMODE` there was. -/
theorem test_init_fails_at_22 :
    (bytes (exec .init { down with answers := List.replicate 21 .ok ++ [.fail] })).map Prod.snd =
      some ⟨false, true, false, 0x04, 0x00⟩ := by decide

/-- 2.4: `PRINT 0x20AC` with `BL = 1` sends `0xAC`. -/
theorem test_print : bytes (exec (.print 0x20AC) { up with bl := true }) =
    some ([0xA9, 0xAD, 0xA9, 0xC9, 0xCD, 0xC9], ⟨true, false, true, 0x04, 0x02⟩) := by decide

/-- 2.3: `PRINT 'H'` failing at its 4th write. -/
theorem test_print_fails_at_4 : seen (exec (.print 0x48) (upFailing 3)) =
    some (nib 0x41 0x45 ++ [wFail 0x81], ⟨true, true, false, 0x04, 0x02⟩, some .transportErr) := by decide

/-- 2.5: `SET_CURSOR 39, 3`. -/
theorem test_set_cursor : bytes (exec (.setCursor 39 3) up) =
    some ([0xF0, 0xF4, 0xF0, 0xB0, 0xB4, 0xB0], up.registers) := by decide

/-- 2.5: the largest column of row 3, and the next one, which faults. -/
theorem test_set_cursor_edge :
    bytes (exec (.setCursor 0xAB 3) up) = some ([0xF0, 0xF4, 0xF0, 0xF0, 0xF4, 0xF0], up.registers) ∧
    seen (exec (.setCursor 0xAC 3) up) = some ([], up.registers, some .operandFault) := by decide

/-- 2.6: `CLEAR` with its delay inside. -/
theorem test_clear : seen (exec .clear up) =
    some (nib 0x00 0x04 ++ nib 0x10 0x14 ++ [.delay 2000], up.registers, some .ok) := by decide

/-- 2.6: `CLEAR` failing at its 6th write leaves neither the settle nor the clear delay. -/
theorem test_clear_fails_at_6 : seen (exec .clear (upFailing 5)) =
    some (nib 0x00 0x04 ++ [w 0x10, w 0x14, .delay 1, wFail 0x10],
      ⟨true, true, false, 0x04, 0x02⟩, some .transportErr) := by decide

theorem test_scroll_left : bytes (exec .scrollLeft up) =
    some ([0x10, 0x14, 0x10, 0x80, 0x84, 0x80], up.registers) := by decide

theorem test_scroll_right : bytes (exec .scrollRight up) =
    some ([0x10, 0x14, 0x10, 0xC0, 0xC4, 0xC0], up.registers) := by decide

theorem test_backlight : seen (exec .backlight up) =
    some ([w 0x08], ⟨true, false, true, 0x04, 0x02⟩, some .ok) := by decide

/-- 2.6: the failing write leaves `BL` changed. -/
theorem test_backlight_fails : seen (exec .backlight (upFailing 0)) =
    some ([wFail 0x08], ⟨true, true, true, 0x04, 0x02⟩, some .transportErr) := by decide

theorem test_no_backlight : seen (exec .noBacklight { up with bl := true }) =
    some ([w 0x00], ⟨true, false, false, 0x04, 0x02⟩, some .ok) := by decide

/-- 2.6: `DISPLAY` with `BL = 1`. -/
theorem test_display : bytes (exec .display { up with bl := true, dctl := 0x00 }) =
    some ([0x08, 0x0C, 0x08, 0xC8, 0xCC, 0xC8], ⟨true, false, true, 0x04, 0x02⟩) := by decide

theorem test_no_display : bytes (exec .noDisplay up) =
    some ([0x00, 0x04, 0x00, 0x80, 0x84, 0x80], ⟨true, false, false, 0x00, 0x02⟩) := by decide

/-- 2.6: `NO_DISPLAY` failing at its 5th write leaves `DCTL` changed. -/
theorem test_no_display_fails_at_5 : seen (exec .noDisplay (upFailing 4)) =
    some (nib 0x00 0x04 ++ [w 0x80, wFail 0x84], ⟨true, true, false, 0x00, 0x02⟩, some .transportErr) := by
  decide

theorem test_left_to_right : bytes (exec .leftToRight { up with emode := 0x00 }) =
    some ([0x00, 0x04, 0x00, 0x60, 0x64, 0x60], ⟨true, false, false, 0x04, 0x02⟩) := by decide

theorem test_right_to_left : bytes (exec .rightToLeft up) =
    some ([0x00, 0x04, 0x00, 0x40, 0x44, 0x40], ⟨true, false, false, 0x04, 0x00⟩) := by decide

/-- 2.8: an illegal word before `NOT_READY`, and `NOT_READY` before `OPERAND_FAULT`. -/
theorem test_priority :
    seen (step (presented down 0x0D000000)) = some ([], down.registers, some .illegalOp) ∧
    seen (step (presented down 0x03000900)) = some ([], down.registers, some .notReady) ∧
    seen (step (presented up 0x030009FF)) = some ([], up.registers, some .operandFault) ∧
    seen (step (presented up 0x04000001)) = some ([], up.registers, some .illegalOp) := by decide

/-- 2.8: `err` does not gate an operation. -/
theorem test_err_does_not_gate : bytes (step (presented { up with err := true } 0x02000041)) =
    some ([0x41, 0x45, 0x41, 0x11, 0x15, 0x11], ⟨true, true, false, 0x04, 0x02⟩) := by decide

/-- A word placed after reset is the one the next step runs. -/
theorem test_placed_after_reset : (State.reset.withFetchWord 32 0x02000078).fetch = some 0x02000078 := by
  decide

/-- The latch events of `PRINT 'H'` (V1). -/
theorem test_latched : Trace.latched (nib 0x41 0x45 ++ nib 0x81 0x85) = [(true, 0x4), (true, 0x8)] ∧
    Trace.pairUp [(true, 0x4), (true, 0x8)] = [(true, 0x48)] := by decide

/-- What the controller latched after an outcome. -/
def latched : Host.Outcome State Fault Refusal → Option (List (Bool × Nibble))
  | .next t => some t.latches
  | .fault _ => none
  | .refused _ => none

/-- 2.3: `PRINT 'H'` failing at its 4th write has delivered half a byte, and nothing at its first. -/
theorem test_latched_half_a_byte :
    latched (exec (.print 0x48) (upFailing 3)) = some [(true, 0x4)] ∧
    latched (exec (.print 0x48) (upFailing 1)) = some [] := by decide

/-- R94: with the enable line left high, the next first write is a latch event of its own. -/
theorem test_latched_stray :
    latched (exec (.print 0x41) { up with expander := [(0, 0x84)] }) =
      some [(false, 0x8), (true, 0x4), (true, 0x1)] := by decide

/-- What the controller received since the 4-bit switch, and whether it waits for a low nibble, after an
outcome. -/
def receivedBytes : Host.Outcome State Fault Refusal → Option (List (Bool × Byte) × Bool)
  | .next t => some (t.received, t.awaitsLow)
  | .fault _ => none
  | .refused _ => none

/-- 2.7: the command bytes of `INIT`, whatever was latched before it and with the enable line left high. -/
theorem test_init_received :
    receivedBytes (exec .init { down with expander := [(0, 0x84)], latches := [(true, 0x4)] }) =
      some ([(false, 0x28), (false, 0x0C), (false, 0x01), (false, 0x06), (false, 0x02)], false) := by decide

/-- 2.3: a `PRINT 'H'` that fails at its 4th write leaves the controller waiting for a low nibble. -/
theorem test_awaits_low : receivedBytes (exec (.print 0x48) (upFailing 3)) = some ([], true) := by decide

/-! ## Witnesses: the hypotheses of every obligation can be met -/

theorem allOk_up {n : Nat} (h : n ≤ 42) : up.AllOk n := fun k hk => by
  have : k < 42 := by omega
  rw [State.answerAt, up, List.getElem?_replicate, if_pos this]; rfl

theorem allOk_down {n : Nat} (h : n ≤ 42) : down.AllOk n := allOk_up h

theorem failsAt_upFailing (k : Nat) : (upFailing k).FailsAt k :=
  ⟨fun j hj => by simp [State.answerAt, upFailing, List.getElem?_append, hj],
   by simp [State.answerAt, upFailing]⟩

theorem accepts_up {i : Instr} (h : ∀ col row, i = .setCursor col row → cursorAddress col row ≠ none) :
    up.Accepts i := ⟨.inr rfl, h⟩

theorem witness_EncodeOfDecode : decode 0x03000103 = .ok (.setCursor 3 1) := by decide

theorem witness_DecodeAcceptsExactlyTableRows :
    (0x02FFFFFF : Word) &&& (0xFF000000 : Word) = 0x02000000 ∧
      ((0xFF000000 : Word), (0x02000000 : Word)) ∈ tableRows := by decide

theorem witness_StepRunsDecodedOperation :
    (presented up 0x04000000).program[(presented up 0x04000000).opi]? = some 0x04000000 ∧
      decode 0x04000000 = .ok .clear := by decide

theorem witness_PlacedWordRunsNext : decode (BitVec.ofNat 32 0x0A000000) = .ok .noDisplay := by decide

theorem witness_IllegalWordTurnedAway :
    (presented down 0x0D000000).program[(presented down 0x0D000000).opi]? = some 0x0D000000 ∧
      decode 0x0D000000 = .error .noSuchOpcode := by decide

theorem witness_IdlesAtEndOfProgram : State.reset.program.length ≤ State.reset.opi := by decide

theorem witness_NotReadyTurnedAway : Instr.print 0x78 ≠ .init ∧ State.reset.ready = false := by decide

theorem witness_SetCursorOperandFault_row : up.ready = true ∧ 3 < (4 : Byte).toNat := by decide

theorem witness_SetCursorOperandFault_sum :
    up.ready = true ∧ Config.rowOffset 3 = some 0x54 ∧ 0xFF < (0xAC : Byte).toNat + (0x54 : Byte).toNat := by
  decide

theorem witness_SetCursorOperandFault_sum_row_1 :
    up.ready = true ∧ Config.rowOffset 1 = some 0x40 ∧ 0xFF < (0xC0 : Byte).toNat + (0x40 : Byte).toNat := by
  decide

theorem witness_ChecksInOrder_illegalOp :
    (presented up 0x04000001).fetch = some 0x04000001 ∧
      decode 0x04000001 = .error .argumentNotZero := by decide

theorem witness_ChecksInOrder_notReady :
    (presented down 0x03000900).fetch = some 0x03000900 ∧
      decode 0x03000900 = .ok (.setCursor 0 9) ∧ down.ready = false := by decide

theorem witness_ChecksInOrder_operandFault :
    (presented up 0x030003AC).fetch = some 0x030003AC ∧
      decode 0x030003AC = .ok (.setCursor 0xAC 3) ∧ up.ready = true ∧
      cursorAddress 0xAC 3 = none := by decide

theorem witness_ChecksInOrder_transportErr :
    seen (step (presented (upFailing 0) 0x07000000)) =
      some ([wFail 0x08], ⟨true, true, true, 0x04, 0x02⟩, some .transportErr) := by decide

theorem witness_PrintCompletes : up.ready = true ∧ up.AllOk 6 := ⟨rfl, allOk_up (by decide)⟩

theorem witness_SetCursorCompletes :
    up.ready = true ∧ up.AllOk 6 ∧ Config.rowOffset 3 = some 0x54 ∧
      (0xAB : Byte).toNat + (0x54 : Byte).toNat ≤ 0xFF := ⟨rfl, allOk_up (by decide), by decide, by decide⟩

theorem witness_ClearCompletes : up.ready = true ∧ up.AllOk 6 := ⟨rfl, allOk_up (by decide)⟩

theorem witness_ScrollsComplete : up.ready = true ∧ up.AllOk 6 := ⟨rfl, allOk_up (by decide)⟩

theorem witness_BacklightsComplete : up.ready = true ∧ up.AllOk 1 := ⟨rfl, allOk_up (by decide)⟩

theorem witness_DisplaysComplete : up.ready = true ∧ up.AllOk 6 := ⟨rfl, allOk_up (by decide)⟩

theorem witness_DirectionsComplete : up.ready = true ∧ up.AllOk 6 := ⟨rfl, allOk_up (by decide)⟩

theorem witness_InitCompletes : down.AllOk 42 := allOk_down (by decide)

theorem witness_OperationCosts : up.Accepts (.setCursor 0xAB 3) ∧ up.AllOk (busWrites (.setCursor 0xAB 3)) :=
  ⟨accepts_up (by intro col row h; cases h; decide), allOk_up (by decide)⟩

theorem witness_OperationCosts_init : down.Accepts .init ∧ down.AllOk (busWrites .init) :=
  ⟨⟨.inl rfl, by intro col row h; cases h⟩, allOk_down (by decide)⟩

theorem witness_OperationFrame : ∃ t, exec .clear up = .next t := ⟨_, exec_eq _ _⟩

theorem witness_RegisterWriters :
    ∃ t, exec (.print 0x41) { up with err := true } = .next t ∧ Instr.print 0x41 ≠ .init :=
  ⟨_, exec_eq _ _, by decide⟩

theorem witness_OtherFlagsUntouched_display : ∃ t, exec .noDisplay up = .next t := ⟨_, exec_eq _ _⟩

theorem witness_OtherFlagsUntouched_direction : ∃ t, exec .rightToLeft up = .next t := ⟨_, exec_eq _ _⟩

theorem witness_StatusAfterOperation : ∃ t, exec .init (upFailing 9) = .next t := ⟨_, exec_eq _ _⟩

theorem witness_TransportFaultEndsOperation_first :
    (upFailing 0).Accepts .noDisplay ∧ 0 < busWrites .noDisplay ∧ (upFailing 0).FailsAt 0 :=
  ⟨⟨.inr rfl, by intro col row h; cases h⟩, by decide, failsAt_upFailing 0⟩

theorem witness_TransportFaultEndsOperation_last :
    (upFailing 5).Accepts .noDisplay ∧ 5 < busWrites .noDisplay ∧ (upFailing 5).FailsAt 5 :=
  ⟨⟨.inr rfl, by intro col row h; cases h⟩, by decide, failsAt_upFailing 5⟩

theorem witness_TransportFaultEndsOperation_init :
    (upFailing 41).Accepts .init ∧ 41 < busWrites .init ∧ (upFailing 41).FailsAt 41 :=
  ⟨⟨.inl rfl, by intro col row h; cases h⟩, by decide, failsAt_upFailing 41⟩

theorem witness_FaultsArePrecise :
    ∃ t u, exec .clear (upFailing 5) = .next t ∧
      exec .clear ((upFailing 5).withAnswers (List.replicate 42 .ok)) = .next u :=
  ⟨_, _, exec_eq _ _, exec_eq _ _⟩

theorem witness_SessionNeverRolledBack :
    Instr.noDisplay ≠ .init ∧ ∃ t u, exec .noDisplay (upFailing 4) = .next t ∧
      exec .noDisplay ((upFailing 4).withAnswers (List.replicate 42 .ok)) = .next u :=
  ⟨by decide, _, _, exec_eq _ _, exec_eq _ _⟩

theorem witness_SessionNeverRolledBack_init :
    (18 < 42 ∧ 18 ≤ 18 ∧ (upFailing 18).FailsAt 18) ∧ (30 < 42 ∧ 30 ≤ 30 ∧ (upFailing 30).FailsAt 30) :=
  ⟨⟨by decide, by decide, failsAt_upFailing 18⟩, by decide, by decide, failsAt_upFailing 30⟩

theorem witness_FailedInit_first : 0 < 42 ∧ (upFailing 0).FailsAt 0 := ⟨by decide, failsAt_upFailing 0⟩

theorem witness_FailedInit_before_step_5 : 17 < 42 ∧ (upFailing 17).FailsAt 17 :=
  ⟨by decide, failsAt_upFailing 17⟩

theorem witness_FailedInit_in_step_5 : 18 < 42 ∧ (upFailing 18).FailsAt 18 :=
  ⟨by decide, failsAt_upFailing 18⟩

theorem witness_FailedInit_before_step_7 : 29 < 42 ∧ (upFailing 29).FailsAt 29 :=
  ⟨by decide, failsAt_upFailing 29⟩

theorem witness_FailedInit_last : 41 < 42 ∧ (upFailing 41).FailsAt 41 := ⟨by decide, failsAt_upFailing 41⟩

/-- A step that runs `CLEAR`. -/
theorem step_clear : step (presented up 0x04000000) = .next (outcome .clear (presented up 0x04000000)) := by
  rw [← exec_eq]; rfl

theorem witness_StepKeepsRegistersLegal :
    (presented up 0x04000000).RegistersLegal ∧
      step (presented up 0x04000000) = .next (outcome .clear (presented up 0x04000000)) :=
  ⟨by unfold State.RegistersLegal; decide, step_clear⟩

theorem witness_StepKeepsBusDisciplined :
    (presented up 0x04000000).BusDisciplined ∧
      step (presented up 0x04000000) = .next (outcome .clear (presented up 0x04000000)) :=
  ⟨by unfold State.BusDisciplined; decide, step_clear⟩

theorem witness_BusDisciplined_after_write : { up with trace := [w 0x08] }.BusDisciplined := by
  unfold State.BusDisciplined; decide

theorem witness_StepKeepsLinesIdle :
    (presented up 0x04000000).LinesIdle ∧
      step (presented up 0x04000000) = .next (outcome .clear (presented up 0x04000000)) :=
  ⟨by intro _ e he; simp [presented, up, State.reset, Trace.writes] at he, step_clear⟩

theorem witness_LinesIdle_after_write : { up with trace := [w 0x08] }.LinesIdle := by
  intro _ e he
  simp [w, Trace.writes] at he
  subst he
  exact ⟨0x08, rfl, by decide⟩

theorem witness_StepKeepsAnswered :
    (presented up 0x04000000).Answered ∧
      step (presented up 0x04000000) = .next (outcome .clear (presented up 0x04000000)) :=
  ⟨rfl, step_clear⟩

theorem witness_StepKeepsMemoryCanonical :
    (presented up 0x04000000).MemoryOk ∧
      step (presented up 0x04000000) = .next (outcome .clear (presented up 0x04000000)) :=
  ⟨⟨by decide, by decide⟩, step_clear⟩

theorem witness_StepKeepsTrustedLineLow :
    (presented up 0x04000000).trustworthy = true ∧ (presented up 0x04000000).TrustedLineLow ∧
      step (presented up 0x04000000) = .next (outcome .clear (presented up 0x04000000)) :=
  ⟨by decide, fun _ => by decide, step_clear⟩

theorem witness_UnwrittenFlagsUnobservable :
    down.ready = false ∧ ∃ t u, exec .init down = .next t ∧
      exec .init (down.withFlags 0x04 0x02) = .next u ∧ t.ready = true :=
  ⟨rfl, _, _, exec_eq _ _, exec_eq _ _, by decide⟩

/-- A controller that received the bytes of `INIT` is in phase; one that latched half a byte since is not, and
`STATUS.err = 0` rules it out. -/
def initialised : State :=
  { presented up 0x04000000 with
    latches := [(false, 0x3), (false, 0x3), (false, 0x3), (false, 0x2), (false, 0x2), (false, 0x8)]
    pairedFrom := 4 }

theorem witness_StepKeepsTrustedInPhase :
    initialised.trustworthy = true ∧ initialised.TrustedLineLow ∧ initialised.TrustedInPhase ∧
      step initialised = .next (outcome .clear initialised) :=
  ⟨by decide, fun _ => by decide, fun _ => by decide, by rw [← exec_eq]; rfl⟩

theorem witness_EveryStoreIsExpanderWrite :
    step (presented up 0x04000000) = .next (outcome .clear (presented up 0x04000000)) ∧
      Event.write 0x27 0x00 0x14 .ok ∈
        (presented up 0x04000000).newEvents (outcome .clear (presented up 0x04000000)) :=
  ⟨step_clear, by decide⟩

theorem witness_PackLayout :
    step (presented up 0x04000000) = .next (outcome .clear (presented up 0x04000000)) ∧
      Event.write 0x27 0x00 0x10 .ok ∈
        (presented up 0x04000000).newEvents (outcome .clear (presented up 0x04000000)) :=
  ⟨step_clear, by decide⟩

theorem witness_BacklightInEveryWrite :
    exec .backlight (upFailing 0) = .next (outcome .backlight (upFailing 0)) ∧
      Event.write 0x27 0x00 0x08 .fail ∈
        (upFailing 0).newEvents (outcome .backlight (upFailing 0)) :=
  ⟨exec_eq _ _, by decide⟩

theorem witness_EnablePulseHeld :
    step (presented up 0x04000000) = .next (outcome .clear (presented up 0x04000000)) := step_clear

theorem witness_SettledAfterFallingEdge :
    step (presented up 0x04000000) = .next (outcome .clear (presented up 0x04000000)) := step_clear

theorem witness_XoutIsLastWrite :
    exec .backlight up = .next (outcome .backlight up) ∧
      (Trace.writes (up.newEvents (outcome .backlight up))).getLast? = some (.write 0x27 0x00 0x08 .ok) :=
  ⟨exec_eq _ _, by decide⟩

theorem witness_XoutIsLastWrite_no_write :
    exec .clear down = .next (outcome .clear down) ∧
      Trace.writes (down.newEvents (outcome .clear down)) = [] :=
  ⟨exec_eq _ _, by decide⟩

theorem witness_XwriteIsOneWrite : up.answerAt 0 = .ok ∧ (upFailing 0).answerAt 0 = .fail := by decide

theorem witness_NibbleProtocol :
    up.AllOk 3 ∧ (upFailing 0).FailsAt 0 ∧ (upFailing 1).FailsAt 1 ∧ (upFailing 2).FailsAt 2 :=
  ⟨allOk_up (by decide), failsAt_upFailing 0, failsAt_upFailing 1, failsAt_upFailing 2⟩

theorem witness_OperationDelivers :
    Instr.setCursor 0xAB 3 ≠ .init ∧ initialised.Accepts (.setCursor 0xAB 3) ∧
      initialised.trustworthy = true ∧ initialised.TrustedLineLow ∧ initialised.TrustedInPhase ∧
      initialised.AllOk (busWrites (.setCursor 0xAB 3)) :=
  ⟨by decide, witness_OperationCosts.1, by decide, fun _ => by decide, fun _ => by decide,
    witness_OperationCosts.2⟩

theorem witness_LatchesFollowOutputs_ok :
    exec .backlight up = .next (outcome .backlight up) ∧
      ∀ e ∈ up.newEvents (outcome .backlight up), e.answeredOk = e :=
  ⟨exec_eq _ _, by decide⟩

theorem witness_LatchesFollowOutputs_fail :
    exec .backlight (upFailing 0) = .next (outcome .backlight (upFailing 0)) ∧
      ∃ e ∈ (upFailing 0).newEvents (outcome .backlight (upFailing 0)), e.answeredOk ≠ e :=
  ⟨exec_eq _ _, by decide⟩

theorem witness_TrustedOperationDelivers_ok :
    Instr.print 0x41 ≠ .init ∧ initialised.TrustedLineLow ∧ initialised.TrustedInPhase ∧
      initialised.trustworthy = true ∧ exec (.print 0x41) initialised = .next (outcome (.print 0x41) initialised) ∧
      (outcome (.print 0x41) initialised).trustworthy = true :=
  ⟨by decide, fun _ => by decide, fun _ => by decide, by decide, exec_eq _ _, by decide⟩

theorem witness_TrustedOperationDelivers_operandFault :
    Instr.setCursor 0 4 ≠ .init ∧ initialised.TrustedLineLow ∧ initialised.TrustedInPhase ∧
      initialised.trustworthy = true ∧ exec (.setCursor 0 4) initialised = .next (outcome (.setCursor 0 4) initialised) ∧
      (outcome (.setCursor 0 4) initialised).trustworthy = true :=
  ⟨by decide, fun _ => by decide, fun _ => by decide, by decide, exec_eq _ _, by decide⟩

theorem witness_InitDelivers : down.AllOk 42 := allOk_down (by decide)

theorem witness_DelaysMergeAndLengthen : 0 < 1 := by decide

theorem witness_RowOffsetTable : 3 < (4 : Byte).toNat ∧ 3 < (0xFF : Byte).toNat := by decide

theorem witness_PrintStrSendsEveryCharacter :
    up.ready = true ∧ up.AllOk (6 * ['H', 'i'].length) := ⟨rfl, allOk_up (by decide)⟩

theorem witness_PrintStrStopsAtFailure :
    (upFailing 11).ready = true ∧ 1 < ['H', 'i'].length ∧ 5 < 6 ∧ (upFailing 11).FailsAt (6 * 1 + 5) :=
  ⟨rfl, by decide, by decide, failsAt_upFailing 11⟩

theorem witness_PrintStrStopsAtFailure_not_ready : down.ready = false := rfl

end Sys2Proof.Tests
end

section
/-! PROOFS. Session state is never rolled back (R24): an operation but `INIT` writes its registers before its
first bus write, and what `INIT` has written no later element of its sequence writes again. -/

namespace Sys2Proof.Machine

/-! ## What a sequence leaves in a part of the registers -/

/-- No element of the sequence changes the part `f` of the registers. -/
def ScriptKeeps {α : Type} (f : Registers → α) (script : List Act) : Prop :=
  ∀ a ∈ script, ∀ r, f (a.onRegisters r) = f r

@[simp] theorem scriptKeeps_nil {α : Type} (f : Registers → α) : ScriptKeeps f [] := by
  simp [ScriptKeeps]

@[simp] theorem scriptKeeps_cons {α : Type} (f : Registers → α) (a : Act) (script : List Act) :
    ScriptKeeps f (a :: script) ↔ (∀ r, f (a.onRegisters r) = f r) ∧ ScriptKeeps f script := by
  simp [ScriptKeeps]

@[simp] theorem scriptKeeps_append {α : Type} (f : Registers → α) (a b : List Act) :
    ScriptKeeps f (a ++ b) ↔ ScriptKeeps f a ∧ ScriptKeeps f b :=
  List.forall_mem_append

/-- A nibble transmission changes no register (R90). -/
@[simp] theorem scriptKeeps_nibble {α : Type} (f : Registers → α) (n : Nibble) (rs bl : Bool) :
    ScriptKeeps f (nibble n rs bl) := by
  simp [nibble, Config.pulseWrites, Act.onRegisters]

/-- A frame changes no register (R100). -/
@[simp] theorem scriptKeeps_frame {α : Type} (f : Registers → α) (v : Byte) (rs bl : Bool) :
    ScriptKeeps f (frame v rs bl) := by
  simp [frame]

/-- A sequence whose first part has all its writes answered `OK` goes on with the second from there. -/
theorem State.perform_append {a : List Act} {s : State} (h : s.AllOk (xwrites a)) (b : List Act) :
    s.perform (a ++ b) = (applyAll a s).perform b := by
  simp only [State.perform, runScript_append, runScript_allOk h]

/-- A part of the registers that a sequence does not change is the same after it, however it ends, if the error
bit is no part of it. -/
theorem State.perform_registers {α : Type} {f : Registers → α} {script : List Act}
    (hs : ScriptKeeps f script) (he : ∀ r : Registers, f { r with err := true } = f r) (s : State) :
    f (s.perform script).registers = f s.registers := by
  refine State.perform_keeps (P := fun t => f t.registers = f s.registers) (fun a ha t ht => ?_)
    (fun t ht => (he t.registers).trans ht) (fun _ _ ht => ht) rfl
  have hreg : (a.apply t).registers = a.onRegisters t.registers := registers_applyAll [a] t
  rw [hreg, hs a ha, ht]

/-- What the first part of a sequence wrote stands, however the rest ends, if the rest does not write it
again. -/
theorem State.perform_append_registers {α : Type} {f : Registers → α} {a b : List Act} {s : State}
    (h : s.AllOk (xwrites a)) (hb : ScriptKeeps f b)
    (he : ∀ r : Registers, f { r with err := true } = f r) :
    f (s.perform (a ++ b)).registers = f (a.foldl (fun r x => x.onRegisters r) s.registers) := by
  rw [State.perform_append h, State.perform_registers hb he, registers_applyAll]

/-! ## Operations other than `INIT` -/

/-- The session state among the registers: `BL`, `DCTL`, `EMODE` (R24). -/
def Registers.session (r : Registers) : Bool × Byte × Byte := (r.bl, r.dctl, r.emode)

/-- An operation other than `INIT` changes its registers before its first bus write (R24). -/
theorem scriptOf_session_first {i : Instr} {s : State} {script : List Act} (hi : i ≠ .init)
    (h : scriptOf i s = some script) :
    ∃ a b, script = a ++ b ∧ xwrites a = 0 ∧ ScriptKeeps Registers.session b := by
  cases i <;> simp only [scriptOf, Option.some.injEq, Option.map_eq_some_iff] at h
  case init => exact absurd rfl hi
  case print | scrollLeft | scrollRight =>
    exact ⟨[], script, rfl, rfl, by simp [← h]⟩
  case setCursor =>
    obtain ⟨addr, -, h⟩ := h
    exact ⟨[], script, rfl, rfl, by simp [← h]⟩
  case clear => exact ⟨[], script, rfl, rfl, by simp [← h, clearScript, Act.onRegisters]⟩
  case backlight | noBacklight =>
    exact ⟨[.setBl _], [.xwrite _], h.symm, rfl, by simp [Act.onRegisters]⟩
  case display | noDisplay => exact ⟨[.setDctl _], frame _ _ _, h.symm, rfl, by simp⟩
  case leftToRight | rightToLeft => exact ⟨[.setEmode _], frame _ _ _, h.symm, rfl, by simp⟩

/-- The sequence of an operation does not depend on the transport's answers. -/
theorem scriptOf_withAnswers (i : Instr) (s : State) (answers : List Answer) :
    scriptOf i (s.withAnswers answers) = scriptOf i s := by
  cases i <;> rfl

/-- The session state after an operation other than `INIT` does not depend on the transport's answers. -/
theorem outcome_session_withAnswers {i : Instr} (hi : i ≠ .init) (s : State) (answers : List Answer) :
    (outcome i (s.withAnswers answers)).registers.session = (outcome i s).registers.session := by
  have hready : (s.withAnswers answers).ready = s.ready := rfl
  unfold outcome
  rw [scriptOf_withAnswers, hready]
  split
  · rfl
  · cases hsc : scriptOf i s with
    | none => rfl
    | some script =>
      obtain ⟨a, b, rfl, ha, hb⟩ := scriptOf_session_first hi hsc
      have noWrite (u : State) : u.AllOk (xwrites a) := fun k hk => by omega
      simp only [State.perform_append_registers (noWrite _) hb fun _ => rfl]
      rfl

/-! ## `INIT` -/

/-- The sequence of `INIT` up to where `DCTL` has its baseline (R136); step 5 writes it twice. -/
def initThroughDctl (bl : Bool) : List Act :=
  initEntry bl ++ initPower ++ initReset8 bl ++ initSet4 bl ++ initFunctionSet bl ++
    [.setDctl Config.displayOn, .setDctl (dctlDisplayOn (dctlWrite Config.displayOn))]

/-- The sequence of `INIT` up to where `EMODE` has its baseline (R138). -/
def initThroughEmode (bl : Bool) : List Act :=
  initEntry bl ++ initPower ++ initReset8 bl ++ initSet4 bl ++ initFunctionSet bl ++ initDisplay bl ++
    initClear bl ++ [.setEmode Config.entryLeft]

/-- The writes of steps 2 to 4 (R142). -/
theorem xwrites_initThroughDctl (bl : Bool) : xwrites (initThroughDctl bl) = 18 := rfl

/-- The writes of steps 2 to 6 (R142). -/
theorem xwrites_initThroughEmode (bl : Bool) : xwrites (initThroughEmode bl) = 30 := rfl

/-- `INIT` leaves `BL` as its entry set it, whatever the transport answers (R131). -/
theorem perform_initScript_bl (bl : Bool) (s : State) : (s.perform (initScript bl)).bl = bl := by
  obtain ⟨b, hsplit, hb⟩ : ∃ b, initScript bl = initEntry bl ++ b ∧ ScriptKeeps Registers.bl b := by
    refine ⟨_, by simp only [initScript, List.append_assoc]; rfl, ?_⟩
    simp [initPower, initReset8, initSet4, initFunctionSet, initDisplay, displayScript, initClear,
      clearScript, initEntryMode, entryModeScript, initHome, initTerminal, Act.onRegisters]
  have noWrite : s.AllOk (xwrites (initEntry bl)) := fun k hk => absurd hk (Nat.not_lt_zero k)
  rw [hsplit]
  exact State.perform_append_registers noWrite hb fun _ => rfl

/-- With the 18 writes of steps 2 to 4 made `INIT` leaves `DCTL` at its baseline (R136). -/
theorem perform_initScript_dctl {s : State} (h : s.AllOk 18) (bl : Bool) :
    (s.perform (initScript bl)).dctl = Config.displayOn := by
  obtain ⟨b, hsplit, hb⟩ :
      ∃ b, initScript bl = initThroughDctl bl ++ b ∧ ScriptKeeps Registers.dctl b := by
    refine ⟨_, by simp only [initScript, initThroughDctl, initDisplay, displayScript, List.append_assoc,
      List.cons_append, List.nil_append]; rfl, ?_⟩
    simp [initClear, clearScript, initEntryMode, entryModeScript, initHome, initTerminal,
      Act.onRegisters]
  rw [← xwrites_initThroughDctl bl] at h
  rw [hsplit]
  exact State.perform_append_registers h hb fun _ => rfl

/-- With the 30 writes of steps 2 to 6 made `INIT` leaves `EMODE` at its baseline (R138). -/
theorem perform_initScript_emode {s : State} (h : s.AllOk 30) (bl : Bool) :
    (s.perform (initScript bl)).emode = Config.entryLeft := by
  obtain ⟨b, hsplit, hb⟩ :
      ∃ b, initScript bl = initThroughEmode bl ++ b ∧ ScriptKeeps Registers.emode b := by
    refine ⟨_, by simp only [initScript, initThroughEmode, initEntryMode, entryModeScript,
      List.append_assoc, List.cons_append, List.nil_append]; rfl, ?_⟩
    simp [initHome, initTerminal, Act.onRegisters]
  rw [← xwrites_initThroughEmode bl] at h
  rw [hsplit]
  exact State.perform_append_registers h hb fun _ => rfl

/-- Settles O28: an operation other than `INIT` writes its registers before its first bus write, and the
elements of `INIT` after the write of a register do not write it again. -/
theorem sessionNeverRolledBack : Obligations.SessionNeverRolledBack := by
  unfold Obligations.SessionNeverRolledBack
  refine ⟨fun i s t u hi ht hu => ?_, fun s k _ hfail => ?_⟩
  · rw [exec_eq, Host.Outcome.next.injEq] at ht hu
    subst ht hu
    simpa [Registers.session, State.registers] using
      (outcome_session_withAnswers hi s (List.replicate 42 .ok)).symm
  · exact ⟨_, rfl, perform_initScript_bl _ s,
      fun hk => perform_initScript_dctl (hfail.1.mono hk) _,
      fun hk => perform_initScript_emode (hfail.1.mono hk) _⟩

end Sys2Proof.Machine
end

section
/-! PROOFS. The bus discipline (R31): every store is the two bytes `0x00, v` to `DEV_ADDR`, so of the expander's
register space nothing but the output register can change. -/

namespace Sys2Proof.Machine

/-! ## From operations to steps -/

/-- What the elements of every operation's sequence, the error bit and the response keep, a step keeps. -/
theorem step_keeps {P : State → Prop} {s t : State} (h : step s = .next t) (hs : P s)
    (ha : ∀ i script, scriptOf i s = some script → ∀ a ∈ script, ∀ s, P s → P (a.apply s))
    (he : ∀ s, P s → P (s.setErr true)) (hr : ∀ s c, P s → P (s.respond c)) : P t := by
  rcases step_cases h with ⟨_, rfl⟩ | ⟨_, _, _, _, rfl⟩ | ⟨_, i, _, _, hexec⟩
  · exact hs
  · exact hr s .illegalOp hs
  · exact exec_keeps hexec hs (ha i) he hr

/-- What holds of no events, of the events of every operation's sequence, and of those cut short at a failing
write whenever it holds of the uncut ones, holds of the events a step adds. -/
theorem step_events_hold {P : List Event → Prop} {s t : State} (h : step s = .next t) (hnil : P [])
    (hall : ∀ i script, scriptOf i s = some script → P (okEvents s.devAddr script))
    (hcut : ∀ es v fs, P (es ++ .write s.devAddr 0x00 v .ok :: fs) →
      P (es ++ [.write s.devAddr 0x00 v .fail])) : P (s.newEvents t) := by
  rcases step_cases h with ⟨_, rfl⟩ | ⟨_, _, _, _, rfl⟩ | ⟨_, i, _, _, hexec⟩
  · simpa [State.newEvents] using hnil
  · simpa [State.newEvents] using hnil
  · exact exec_events_hold hexec hnil (hall i) hcut

/-! ## Where the stores go -/

/-- The write an element makes, if it is one, goes to the device's output register (R31). -/
theorem Act.okEvent_write {a : Act} {dev d : BitVec 7} {p v : Byte} {r : Answer}
    (h : a.okEvent dev = some (.write d p v r)) : d = dev ∧ p = 0x00 := by
  cases a with
  | xwrite w =>
    cases h
    exact ⟨rfl, rfl⟩
  | _ => cases h

/-- So do the writes of a sequence. -/
theorem okEvents_write {script : List Act} {dev d : BitVec 7} {p v : Byte} {r : Answer}
    (h : .write d p v r ∈ okEvents dev script) : d = dev ∧ p = 0x00 := by
  obtain ⟨_, _, ha⟩ := List.mem_filterMap.mp h
  exact Act.okEvent_write ha

/-- The writes a step adds, the failed ones among them, go to the output register of `DEV_ADDR`. -/
theorem step_write {s t : State} (h : step s = .next t) :
    ∀ d p v r, .write d p v r ∈ s.newEvents t → d = s.devAddr ∧ p = 0x00 := by
  refine step_events_hold (P := fun es => ∀ d p v r, .write d p v r ∈ es → d = s.devAddr ∧ p = 0x00)
    h (by simp) (fun _ _ _ _ _ _ _ => okEvents_write) fun es v fs huncut d p v' r hmem => ?_
  rcases List.mem_append.mp hmem with hes | hlast
  · exact huncut d p v' r (List.mem_append_left _ hes)
  · cases List.mem_singleton.mp hlast
    exact ⟨rfl, rfl⟩

/-- An element of a sequence leaves every location of the expander but the output register alone (R36). -/
theorem Act.read_apply_other (a : Act) (s : State) {b : Nat} (hb : b ≠ 0) :
    Memory.read (a.apply s).expander b = Memory.read s.expander b := by
  cases a with
  | xwrite v => exact Memory.read_write_other s.expander (s.stored v) hb
  | _ => rfl

/-- So does a step. -/
theorem step_read_other {s t : State} (h : step s = .next t) {b : Nat} (hb : b ≠ 0) :
    Memory.read t.expander b = Memory.read s.expander b :=
  step_keeps (P := fun u => Memory.read u.expander b = Memory.read s.expander b) h rfl
    (fun _ _ _ a _ u hu => (a.read_apply_other u hb).trans hu) (fun _ hu => hu) fun _ _ hu => hu

/-- Settles O41: the events of a sequence, cut short at a failing write or not, address the output register
alone, and so do the stores. -/
theorem everyStoreIsExpanderWrite : Obligations.EveryStoreIsExpanderWrite := by
  unfold Obligations.EveryStoreIsExpanderWrite
  exact fun _ _ h => ⟨step_write h, fun _ hb => step_read_other h hb⟩

end Sys2Proof.Machine
end

section
/-! PROOFS. The words of `PRINT_STR` decode to the `PRINT` of each character (R64), and the row-offset table ends
at row 3 (R61). -/

namespace Sys2Proof

/-! ## `PRINT_STR` -/

/-- A word put together from an opcode and an argument field decodes by these two fields (R50). -/
theorem decode_append (op : Byte) (arg : BitVec 24) : decode (op ++ arg) = decodeFields op arg := by
  rw [decode, extract_opcode, extract_argument]

/-- A `PRINT` word decodes to `PRINT` of its code point, whatever the 24 bits are (R52, R53). -/
theorem decode_encode_print (cp : BitVec 24) : decode (encode (.print cp)) = .ok (.print cp) :=
  decode_append (opcode (.print cp)) cp

/-- Settles O5: the words of the text are its characters' words in order, and each decodes to its `PRINT`. -/
theorem printStrExpandsToPrints : Obligations.PrintStrExpandsToPrints := by
  unfold Obligations.PrintStrExpandsToPrints
  intro text
  rw [printStrWords, List.map_map]
  exact List.map_congr_left fun c _ => decode_encode_print (BitVec.ofNat 24 c.toNat)

/-! ## The row-offset table -/

/-- A row above 3 has no entry (R61). -/
theorem Config.rowOffset_eq_none {row : Byte} (h : 3 < row.toNat) : Config.rowOffset row = none := by
  have not_entry (k : Byte) (hk : k.toNat ≤ 3) : row ≠ k := by
    rintro rfl
    exact absurd h (Nat.not_lt.mpr hk)
  rw [Config.rowOffset, if_neg (not_entry 0 (by decide)), if_neg (not_entry 1 (by decide)),
    if_neg (not_entry 2 (by decide)), if_neg (not_entry 3 (by decide))]

/-- Settles O54: the four entries by evaluation, and no byte above 3 is one of their indices. -/
theorem rowOffsetTable : Obligations.RowOffsetTable := by
  unfold Obligations.RowOffsetTable
  exact ⟨rfl, rfl, rfl, rfl, fun _ h => Config.rowOffset_eq_none h⟩

end Sys2Proof
end

section
/-! PROOFS. One `XWRITE` is one bus write (R80, R82): the answer decides what the output register takes and
whether the sequence goes on, and nothing else. -/

namespace Sys2Proof.Machine

/-- A write answered `OK` stores its value (R36). -/
theorem State.stored_ok {s : State} (h : s.nextAnswer = .ok) (v : Byte) : s.stored v = v := by
  simp [State.stored, h]

/-- The whole effect of a bus write, by the transport's answer and the value stored (R30, R31). -/
theorem State.busWrite_eq {s : State} {r : Answer} {v x : Byte} (hr : s.nextAnswer = r)
    (hx : s.stored v = x) :
    s.busWrite v = { s with
      trace := s.trace ++ [.write s.devAddr 0x00 v r]
      expander := Memory.write s.expander 0 x
      latches := s.latches ++ latchEvents [s.xout, x]
      answers := s.answers.tail
      draws := s.draws + 1 } := by
  subst hr hx
  rfl

/-- Settles O47: one bus write whatever the answer; answered `OK` it stores `v` and the rest follows, answered
`FAIL` it stores what the outputs then hold and the sequence ends. -/
theorem xwriteIsOneWrite : Obligations.XwriteIsOneWrite := by
  unfold Obligations.XwriteIsOneWrite
  intro v s rest
  rw [← State.nextAnswer_eq]
  refine ⟨fun hok => ?_, fun hfail => ⟨s.stored v, ?_⟩⟩
  · rw [xwriteThen_ok hok, State.busWrite_eq hok (State.stored_ok hok v)]
  · rw [xwriteThen_fail hfail, State.busWrite_eq hfail rfl]

end Sys2Proof.Machine
end

section
/-! PROOFS. One `NIBBLE` (R90): its three writes all made, or cut off at the one that failed (R81, R94), with no
register changed either way. -/

namespace Sys2Proof.Machine

/-! ## The run of a sequence, complete or cut off -/

/-- A sequence that fails at a known write stops there: the events before it and the failed one stand, and the
outputs came out at any value (R47, R81, R94). -/
theorem runScript_failed {pre : List Act} {s : State} (h : s.FailsAt (xwrites pre)) (v : Byte)
    (post : List Act) :
    ∃ t, runScript (pre ++ .xwrite v :: post) s = .failed t ∧
      t.trace = s.trace ++ (okEvents s.devAddr pre ++ [.write s.devAddr 0x00 v .fail]) ∧
      t.latches = s.latches ++
        latchEvents (s.xout :: Trace.okValues (okEvents s.devAddr pre) ++ [t.xout]) := by
  obtain ⟨hok, hfail⟩ := h
  obtain ⟨htrace, hanswers, hdraws⟩ := applyAll_allOk hok
  obtain ⟨hlatches, hxout⟩ := applyAll_latches hok
  have hans : (applyAll pre s).nextAnswer = .fail := by
    rw [State.nextAnswer_eq]
    simpa [State.answerAt, hanswers, hdraws] using hfail
  have hdev : (applyAll pre s).devAddr = s.devAddr := by
    simpa [runScript_allOk hok, Ended.state] using (runScript_frame pre s).1
  refine ⟨(applyAll pre s).busWrite v, ?_, ?_, ?_⟩
  · simp only [runScript_append, runScript_allOk hok, runScript, xwriteThen_fail hans]
  · rw [State.busWrite_trace, htrace, hans, hdev, List.append_assoc]
    rfl
  · rw [State.busWrite_latches, State.busWrite_xout, hlatches, List.append_assoc,
      ← latchEvents_append hxout.symm]
    rfl

/-- A part of the registers that no element of a sequence changes is the same however the sequence ends. -/
theorem runScript_registers {α : Type} {f : Registers → α} {script : List Act} (h : ScriptKeeps f script)
    (s : State) : f (runScript script s).state.registers = f s.registers := by
  refine runScript_keeps (P := fun t => f t.registers = f s.registers) (fun a ha t ht => ?_) rfl
  have hreg : (a.apply t).registers = a.onRegisters t.registers := registers_applyAll [a] t
  rw [hreg, h a ha, ht]

/-! ## What the controller latches of a nibble cut off -/

/-- Outputs that go from one value to another latch the first one's nibble if the enable line falls (R37). -/
theorem latchEvents_pair (a x : Byte) :
    latchEvents [a, x] =
      if x.getLsbD 2 then [] else if a.getLsbD 2 then [(a.getLsbD 0, highNibble a)] else [] := by
  simp only [latchEvents]
  cases a.getLsbD 2 <;> cases x.getLsbD 2 <;> rfl

/-- From the second write of a nibble on, outputs with the enable line low latch the nibble (R37). -/
theorem latchEvents_rising (n : Nibble) (rs bl : Bool) (x : Byte) :
    latchEvents [pack n rs false bl ||| enMask, x] = if x.getLsbD 2 then [] else [(rs, n)] := by
  rw [pack_rising, latchEvents_pair, pack_en, pack_rs, pack_high_nibble, if_pos rfl]

/-- The first write of a nibble latches the nibble no one sent, if any, and nothing of its own (R94). -/
theorem latchEvents_nibble_start (s : State) (n : Nibble) (rs bl : Bool) (rest : List Byte) :
    latchEvents (s.xout :: pack n rs false bl :: rest) = s.strayLatch ++ latchEvents rest := by
  rw [latchEvents_stray s (pack_en n rs false bl), latchEvents_of_low (pack_en n rs false bl)]

/-! ## `NIBBLE` -/

/-- The five elements of a nibble transmission (R90). -/
theorem nibble_eq (n : Nibble) (rs bl : Bool) :
    nibble n rs bl =
      [.xwrite (pack n rs false bl), .xwrite (pack n rs false bl ||| enMask), .delay 1,
        .xwrite (pack n rs false bl), .delay 50] := by
  simp only [nibble, pack_falling]
  rfl

/-- All three writes made (R90). -/
theorem runScript_nibble_ok {s : State} (h : s.AllOk 3) (n : Nibble) (rs bl : Bool) :
    ∃ t, runScript (nibble n rs bl) s = .completed t ∧
      t.trace = s.trace ++ s.nibbleTrace n rs bl ∧
      t.latches = s.latches ++ s.strayLatch ++ [(rs, n)] ∧ t.xout = pack n rs false bl := by
  refine ⟨s.sent (s.nibbleTrace n rs bl) 3 (pack n rs false bl), ?_, rfl, ?_, State.sent_xout ..⟩
  · rw [runScript_allOk h, applyAll_nibble h]
  · change s.latches ++ latchEvents [s.xout, pack n rs false bl, pack n rs false bl ||| enMask,
      pack n rs false bl] = _
    rw [latchEvents_nibble_start, latchEvents_rising, pack_en, List.append_assoc]
    rfl

/-- The first write failed: at most a nibble no one sent is latched (R94). -/
theorem runScript_nibble_fails_first {s : State} (h : s.FailsAt 0) (n : Nibble) (rs bl : Bool) :
    ∃ t, runScript (nibble n rs bl) s = .failed t ∧
      t.trace = s.trace ++ [.write s.devAddr 0x00 (pack n rs false bl) .fail] ∧
      t.latches = s.latches ++ (if t.xout.getLsbD 2 then [] else s.strayLatch) := by
  rw [nibble_eq]
  obtain ⟨t, hrun, htrace, hlatches⟩ := runScript_failed (pre := []) h (pack n rs false bl) _
  exact ⟨t, hrun, htrace, hlatches.trans (congrArg _ (latchEvents_pair s.xout t.xout))⟩

/-- The second write failed, the enable line low before it: nothing of this nibble is latched (R94). -/
theorem runScript_nibble_fails_second {s : State} (h : s.FailsAt 1) (n : Nibble) (rs bl : Bool) :
    ∃ t, runScript (nibble n rs bl) s = .failed t ∧
      t.trace = s.trace ++ [s.w (pack n rs false bl),
        .write s.devAddr 0x00 (pack n rs false bl ||| enMask) .fail] ∧
      t.latches = s.latches ++ s.strayLatch := by
  rw [nibble_eq]
  obtain ⟨t, hrun, htrace, hlatches⟩ :=
    runScript_failed (pre := [.xwrite (pack n rs false bl)]) h (pack n rs false bl ||| enMask) _
  have hlatch := latchEvents_nibble_start s n rs bl [t.xout]
  exact ⟨t, hrun, htrace, hlatches.trans (congrArg _ (hlatch.trans (List.append_nil _)))⟩

/-- The third write failed: the nibble is latched if the outputs came out with the enable line low (R94). -/
theorem runScript_nibble_fails_third {s : State} (h : s.FailsAt 2) (n : Nibble) (rs bl : Bool) :
    ∃ t, runScript (nibble n rs bl) s = .failed t ∧
      t.trace = s.trace ++ [s.w (pack n rs false bl), s.w (pack n rs false bl ||| enMask), .delay 1,
        .write s.devAddr 0x00 (pack n rs false bl) .fail] ∧
      t.latches = s.latches ++ s.strayLatch ++ (if t.xout.getLsbD 2 then [] else [(rs, n)]) := by
  rw [nibble_eq]
  obtain ⟨t, hrun, htrace, hlatches⟩ := runScript_failed
    (pre := [.xwrite (pack n rs false bl), .xwrite (pack n rs false bl ||| enMask), .delay 1]) h
    (pack n rs false bl) _
  have hlatch := latchEvents_nibble_start s n rs bl [pack n rs false bl ||| enMask, t.xout]
  rw [latchEvents_rising] at hlatch
  refine ⟨t, hrun, htrace, ?_⟩
  rw [List.append_assoc, ← hlatch]
  exact hlatches

/-- Settles O48: all three writes made, or the sequence cut off at the one that failed, and no element of it
writes a register. -/
theorem nibbleProtocol : Obligations.NibbleProtocol := by
  unfold Obligations.NibbleProtocol
  intro n rs s b run
  have hregs : run.state.registers = s.registers := runScript_registers (scriptKeeps_nibble id n rs s.bl) s
  obtain ⟨hready, herr, hbl, hdctl, hemode⟩ := Registers.mk.inj hregs
  have hlow : b &&& ~~~(0x04 : Byte) = b := pack_falling n rs s.bl
  rw [hlow]
  exact ⟨fun h => runScript_nibble_ok h n rs s.bl,
    fun h => runScript_nibble_fails_first h n rs s.bl,
    fun h => runScript_nibble_fails_second h n rs s.bl,
    fun h => runScript_nibble_fails_third h n rs s.bl, hready, herr, hbl, hdctl, hemode⟩

end Sys2Proof.Machine
end

section
/-! PROOFS. The two faults raised before an operation looks at its operands, `ILLEGAL_OP` (R153) and `NOT_READY`
(R154): the state is the one before but for the response and `opi`. -/

namespace Sys2Proof.Machine

/-- A presented word that decodes to no operation is turned away (R116 stage 1, R153). -/
theorem step_of_decode_error {s : State} {w : Word} {e : Illegal} (hfetch : s.fetch = some w)
    (hdecode : decode w = .error e) : step s = .next (s.turnedAway .illegalOp) := by
  have hillegal : s.illegal = s.turnedAway .illegalOp := State.raise_other s (by decide)
  simp only [step, hfetch, hdecode, hillegal]

/-- The readiness gate comes before the rest of every operation but `INIT` (R116 stage 2, R154). -/
theorem outcome_of_not_ready {i : Instr} {s : State} (hi : i ≠ .init) (hready : s.ready = false) :
    outcome i s = s.turnedAway .notReady :=
  if_pos ⟨hi, hready⟩

/-- Settles O8: the word presented is the one fetched, and the fault it raises is not `TransportError`, so
`STATUS.err` stands too. -/
theorem illegalWordTurnedAway : Obligations.IllegalWordTurnedAway := by
  unfold Obligations.IllegalWordTurnedAway
  exact ⟨rfl, fun _ _ _ hpresented hdecode => step_of_decode_error hpresented hdecode⟩

/-- Settles O10: every operation answers its outcome, which the readiness gate decides. -/
theorem notReadyTurnedAway : Obligations.NotReadyTurnedAway := by
  unfold Obligations.NotReadyTurnedAway
  refine ⟨rfl, fun i s hi hready => ?_⟩
  rw [exec_eq, outcome_of_not_ready hi hready]

end Sys2Proof.Machine
end

section
/-! PROOFS. The two timing hazards the LCDF itself respects (R185, R186): what an operation sends is made up of
whole nibble transmissions, which hold the enable pulse and settle after it, and a failing write cuts them off
where nothing has to follow. -/

namespace Sys2Proof.Machine

/-! ## What an operation's events are made of -/

/-- Successful events made up of whole nibble transmissions (R90), and of delays and enable-low writes between
them. -/
inductive State.WholeNibbles (s : State) : List Event → Prop where
  | nil : s.WholeNibbles []
  | delay (us : Nat) {es : List Event} (h : s.WholeNibbles es) : s.WholeNibbles (.delay us :: es)
  | low {v : Byte} (hv : v.getLsbD 2 = false) {es : List Event} (h : s.WholeNibbles es) :
      s.WholeNibbles (s.w v :: es)
  | nibble (n : Nibble) (rs bl : Bool) {es : List Event} (h : s.WholeNibbles es) :
      s.WholeNibbles (s.nibbleTrace n rs bl ++ es)

/-- A frame is two whole nibbles (R100). -/
theorem State.WholeNibbles.frame {s : State} (v : Byte) (rs bl : Bool) {es : List Event}
    (h : s.WholeNibbles es) : s.WholeNibbles (s.frameTrace v rs bl ++ es) := by
  rw [State.frameTrace, List.append_assoc]
  exact .nibble _ rs bl (.nibble _ rs bl h)

theorem State.wholeNibbles_frameTrace (s : State) (v : Byte) (rs bl : Bool) :
    s.WholeNibbles (s.frameTrace v rs bl) := by
  simpa using State.WholeNibbles.frame v rs bl .nil

/-- The table of R142 is whole nibbles with delays between them. -/
theorem State.wholeNibbles_initTrace (s : State) (bl : Bool) : s.WholeNibbles (s.initTrace bl) := by
  simp only [State.initTrace, List.append_assoc, List.cons_append, List.nil_append]
  refine .delay _ (.nibble _ _ _ (.delay _ (.nibble _ _ _ (.delay _ (.nibble _ _ _ (.delay _ ?_))))))
  exact .nibble _ _ _ (.frame _ _ _ (.frame _ _ _ (.frame _ _ _ (.delay _ (.frame _ _ _
    (.frame _ _ _ (.delay _ .nil)))))))

/-- So are the events of every operation's sequence; the raw write of the backlight operations has the enable
bit 0 (R109, R110). -/
theorem scriptOf_wholeNibbles {i : Instr} {s : State} {script : List Act}
    (h : scriptOf i s = some script) : s.WholeNibbles (okEvents s.devAddr script) := by
  cases i <;> simp only [scriptOf, Option.some.injEq, Option.map_eq_some_iff] at h
  case init =>
    rw [← h, okEvents_init]
    exact s.wholeNibbles_initTrace _
  case setCursor =>
    obtain ⟨a, -, rfl⟩ := h
    rw [okEvents_frame]
    exact s.wholeNibbles_frameTrace _ _ _
  case clear =>
    rw [← h, clearScript, okEvents_append, okEvents_frame]
    exact .frame _ _ _ (.delay _ .nil)
  case backlight | noBacklight =>
    rw [← h]
    exact .low (pack_en _ _ _ _) .nil
  case print | scrollLeft | scrollRight =>
    rw [← h, okEvents_frame]
    exact s.wholeNibbles_frameTrace _ _ _
  case display | noDisplay =>
    rw [← h, displayScript, okEvents_setDctl, okEvents_frame]
    exact s.wholeNibbles_frameTrace _ _ _
  case leftToRight | rightToLeft =>
    rw [← h, entryModeScript, okEvents_setEmode, okEvents_frame]
    exact s.wholeNibbles_frameTrace _ _ _

/-- What holds of whole nibbles, and of those cut short at a failing write whenever it holds of the uncut ones,
holds of the events a step adds. -/
theorem step_events_hold_of_wholeNibbles {P : List Event → Prop} {s t : State} (h : step s = .next t)
    (hwhole : ∀ es, s.WholeNibbles es → P es)
    (hcut : ∀ es v fs, P (es ++ .write s.devAddr 0x00 v .ok :: fs) →
      P (es ++ [.write s.devAddr 0x00 v .fail])) : P (s.newEvents t) :=
  step_events_hold h (hwhole [] .nil) (fun _ _ hsc => hwhole _ (scriptOf_wholeNibbles hsc)) hcut

/-- The third write of a nibble is the second with the enable bit cleared (R90 step 4). -/
theorem pack_rising_falling (n : Nibble) (rs bl : Bool) :
    pack n rs false bl = (pack n rs false bl ||| 0x04) &&& ~~~(0x04 : Byte) := by
  revert n rs bl; decide

/-! ## The enable pulse is held (R185) -/

/-- A successful write asks for something only with its enable bit 1: a delay, and then the same byte with that
bit cleared. -/
theorem Trace.pulsesHeld_write_ok (d : BitVec 7) (p v : Byte) (es : List Event) :
    Trace.pulsesHeld (.write d p v .ok :: es) = true ↔
      (v.getLsbD 2 = true → ∃ us d' p' r fs, 1 ≤ us ∧
        es = .delay us :: .write d' p' (v &&& ~~~(0x04 : Byte)) r :: fs) ∧
      Trace.pulsesHeld es = true := by
  rcases es with _ | ⟨_ | us, _ | ⟨⟨d', p', v', r⟩ | _, fs⟩⟩ <;>
    simp [Trace.pulsesHeld, imp_iff_not_or, and_comm]

/-- An enable-low write asks for nothing. -/
theorem Trace.pulsesHeld_low {s : State} {v : Byte} {es : List Event} (hv : v.getLsbD 2 = false)
    (h : Trace.pulsesHeld es = true) : Trace.pulsesHeld (s.w v :: es) = true :=
  (Trace.pulsesHeld_write_ok _ _ _ _).mpr
    ⟨fun hhigh => absurd hhigh (Bool.eq_false_iff.mp hv), h⟩

/-- A nibble transmission holds its pulse. -/
theorem Trace.pulsesHeld_nibbleTrace {s : State} (n : Nibble) (rs bl : Bool) {es : List Event}
    (h : Trace.pulsesHeld es = true) : Trace.pulsesHeld (s.nibbleTrace n rs bl ++ es) = true := by
  have hlow := pack_en n rs false bl
  refine Trace.pulsesHeld_low hlow ((Trace.pulsesHeld_write_ok _ _ _ _).mpr ⟨fun _ => ?_, ?_⟩)
  · exact ⟨1, _, _, _, _, le_rfl, by rw [← pack_rising_falling]; rfl⟩
  · exact Trace.pulsesHeld_low (s := s) hlow h

/-- So do whole nibbles. -/
theorem State.WholeNibbles.pulsesHeld {s : State} {es : List Event} (h : s.WholeNibbles es) :
    Trace.pulsesHeld es = true := by
  induction h with
  | nil => rfl
  | delay _ _ ih => exact ih
  | low hv _ ih => exact Trace.pulsesHeld_low hv ih
  | nibble n rs bl _ ih => exact Trace.pulsesHeld_nibbleTrace n rs bl ih

/-- A trace cut short at a failing write holds its pulses: the write that ends a pulse may be the failing one. -/
theorem Trace.pulsesHeld_cut {d : BitVec 7} {p v : Byte} {es fs : List Event}
    (h : Trace.pulsesHeld (es ++ .write d p v .ok :: fs) = true) :
    Trace.pulsesHeld (es ++ [.write d p v .fail]) = true := by
  induction es with
  | nil => rfl
  | cons e es ih =>
    rcases e with ⟨d', p', v', _ | _⟩ | us
    case write.ok =>
      obtain ⟨hfollow, hrest⟩ := (Trace.pulsesHeld_write_ok _ _ _ _).mp h
      refine (Trace.pulsesHeld_write_ok _ _ _ _).mpr ⟨fun hv => ?_, ih hrest⟩
      obtain ⟨us, d'', p'', r, gs, hus, hes⟩ := hfollow hv
      rcases es with _ | ⟨a, _ | ⟨b, es⟩⟩
      · cases hes
      · cases hes
        exact ⟨us, _, _, _, _, hus, rfl⟩
      · cases hes
        exact ⟨us, _, _, _, _, hus, rfl⟩
    case write.fail => exact ih h
    case delay => exact ih h

/-- Settles O44: every whole nibble holds its pulse, and cutting the sequence short at a failing write leaves
each enable-high write answered `OK` with the delay and the write after it. -/
theorem enablePulseHeld : Obligations.EnablePulseHeld := by
  unfold Obligations.EnablePulseHeld
  exact fun _ _ h => step_events_hold_of_wholeNibbles (P := fun es => Trace.pulsesHeld es = true) h
    (fun _ hes => hes.pulsesHeld) fun _ _ _ => Trace.pulsesHeld_cut

/-! ## After the falling edge the display settles (R186) -/

/-- A successful write asks for something only if it ends a pulse: a delay of the settle time. -/
theorem Trace.settledFrom_write_ok (high : Bool) (d : BitVec 7) (p v : Byte) (es : List Event) :
    Trace.settledFrom high (.write d p v .ok :: es) = true ↔
      (high = true → v.getLsbD 2 = false → ∃ us fs, 50 ≤ us ∧ es = .delay us :: fs) ∧
      Trace.settledFrom (v.getLsbD 2) es = true := by
  rcases es with _ | ⟨_ | us, fs⟩ <;> simp [Trace.settledFrom, imp_iff_not_or, or_assoc]

/-- A write that starts from a low enable line is no falling edge. -/
theorem Trace.settledFrom_line_low {s : State} {v : Byte} {es : List Event}
    (h : Trace.settledFrom (v.getLsbD 2) es = true) : Trace.settledFrom false (s.w v :: es) = true :=
  (Trace.settledFrom_write_ok _ _ _ _ _).mpr ⟨nofun, h⟩

/-- A nibble transmission from a low enable line settles, and leaves the line low. -/
theorem Trace.settledFrom_nibbleTrace {s : State} (n : Nibble) (rs bl : Bool) {es : List Event}
    (h : Trace.settledFrom false es = true) :
    Trace.settledFrom false (s.nibbleTrace n rs bl ++ es) = true := by
  have hlow := pack_en n rs false bl
  refine Trace.settledFrom_line_low ?_
  rw [hlow]
  refine Trace.settledFrom_line_low ?_
  change Trace.settledFrom _ (s.w (pack n rs false bl) :: .delay 50 :: es) = true
  refine (Trace.settledFrom_write_ok _ _ _ _ _).mpr ⟨fun _ _ => ?_, ?_⟩
  · exact ⟨50, _, le_rfl, rfl⟩
  · rwa [hlow]

/-- So do whole nibbles. -/
theorem State.WholeNibbles.settledFrom {s : State} {es : List Event} (h : s.WholeNibbles es) :
    Trace.settledFrom false es = true := by
  induction h with
  | nil => rfl
  | delay _ _ ih => exact ih
  | low hv _ ih => exact Trace.settledFrom_line_low (by rwa [hv])
  | nibble n rs bl _ ih => exact Trace.settledFrom_nibbleTrace n rs bl ih

/-- A trace cut short at a failing write is settled: after the write nothing is issued any more. -/
theorem Trace.settledFrom_cut {high : Bool} {d : BitVec 7} {p v : Byte} {es fs : List Event}
    (h : Trace.settledFrom high (es ++ .write d p v .ok :: fs) = true) :
    Trace.settledFrom high (es ++ [.write d p v .fail]) = true := by
  induction es generalizing high with
  | nil => rfl
  | cons e es ih =>
    rcases e with ⟨d', p', v', _ | _⟩ | us
    case write.ok =>
      obtain ⟨hfollow, hrest⟩ := (Trace.settledFrom_write_ok _ _ _ _ _).mp h
      refine (Trace.settledFrom_write_ok _ _ _ _ _).mpr ⟨fun hhigh hv => ?_, ih hrest⟩
      obtain ⟨us, gs, hus, hes⟩ := hfollow hhigh hv
      cases es <;> cases hes
      exact ⟨us, _, hus, rfl⟩
    case write.fail => exact ih h
    case delay => exact ih h

/-- Settles O45: every whole nibble settles after its falling edge, and a sequence cut short at a failing write
issues nothing after it. -/
theorem settledAfterFallingEdge : Obligations.SettledAfterFallingEdge := by
  unfold Obligations.SettledAfterFallingEdge
  exact fun _ _ h => step_events_hold_of_wholeNibbles (P := fun es => Trace.settledFrom false es = true) h
    (fun _ hes => hes.settledFrom) fun _ _ _ => Trace.settledFrom_cut

end Sys2Proof.Machine
end

section
/-! PROOFS. The decoder and the encoder are each other's inverse on the legal words (R50 to R54), and the legal
words are those of the table's rows (R53). -/

namespace Sys2Proof

/-! ## Decoding what was encoded -/

/-- An encoded word decodes by the operation's opcode and argument field (R50). -/
theorem decode_encode_eq (i : Instr) : decode (encode i) = decodeFields (opcode i) (argument i) :=
  decode_append (opcode i) (argument i)

/-- The argument field of `SET_CURSOR` gives its two operands back (R51). -/
theorem decodeC_argument (col row : Byte) :
    decodeC (argument (.setCursor col row)) = .ok (.setCursor col row) := by
  simp only [decodeC, argument, extract_high_byte, extract_middle_byte, extract_low_byte, if_pos]

/-- Settles O2: by the two fields of the word; `SET_CURSOR` has its operands to put together, `PRINT` its code
point as it stands, and the other operations have none. -/
theorem decodeOfEncode : Obligations.DecodeOfEncode := by
  unfold Obligations.DecodeOfEncode
  intro i
  rw [decode_encode_eq]
  cases i with
  | setCursor col row => exact decodeC_argument col row
  | _ => rfl

/-! ## Encoding what was decoded -/

/-- A word with the opcode and the argument field of an operation is that operation's word (R50). -/
theorem encode_eq_of_fields {i : Instr} {w : Word} (hop : w.extractLsb' 24 8 = opcode i)
    (harg : w.extractLsb' 0 24 = argument i) : encode i = w := by
  rw [encode, ← hop, ← harg, ← word_split]

/-- A format-N word encodes the operation it decodes to. -/
theorem encode_of_decodeN {i j : Instr} {w : Word} (h : decodeN (w.extractLsb' 0 24) j = .ok i)
    (hop : w.extractLsb' 24 8 = opcode j) (hzero : argument j = 0) : encode i = w := by
  obtain ⟨harg, rfl⟩ := decodeN_ok h
  exact encode_eq_of_fields hop (harg.trans hzero.symm)

/-- So does a format-C word: bits 23:16 are zero and the other two bytes are the operands. -/
theorem encode_of_decodeC {i : Instr} {w : Word} (h : decodeC (w.extractLsb' 0 24) = .ok i)
    (hop : w.extractLsb' 24 8 = 3) : encode i = w := by
  obtain ⟨hhigh, rfl⟩ := decodeC_ok h
  refine encode_eq_of_fields hop ((argument_split _).trans ?_)
  rw [hhigh]
  rfl

/-- Settles O3: one case per opcode, each by the form of its argument field. -/
theorem encodeOfDecode : Obligations.EncodeOfDecode := by
  unfold Obligations.EncodeOfDecode
  intro w i h
  unfold decode at h
  rcases decodeFields_cases (w.extractLsb' 24 8) (w.extractLsb' 0 24) with
    ⟨hop, e⟩ | ⟨hop, e⟩ | ⟨hop, e⟩ | ⟨hop, e⟩ | ⟨hop, e⟩ | ⟨hop, e⟩ | ⟨hop, e⟩ | ⟨hop, e⟩ | ⟨hop, e⟩ |
    ⟨hop, e⟩ | ⟨hop, e⟩ | ⟨hop, e⟩ | ⟨e, hop⟩ <;> rw [e] at h
  case inr.inl =>
    cases h
    exact encode_eq_of_fields hop rfl
  case inr.inr.inl => exact encode_of_decodeC h hop
  case inr.inr.inr.inr.inr.inr.inr.inr.inr.inr.inr.inr => cases h
  all_goals exact encode_of_decodeN h hop rfl

/-! ## The rows of the table -/

/-- The row of R53 for an operation, whatever its operands. -/
def tableRow (i : Instr) : Word × Word := (formatMask (format i), opcode i ++ (0 : BitVec 24))

/-- Every operation has its row in the table. -/
theorem tableRow_mem (i : Instr) : tableRow i ∈ tableRows := by
  cases i with
  | print cp => exact (by decide : tableRow (.print 0) ∈ tableRows)
  | setCursor col row => exact (by decide : tableRow (.setCursor 0 0) ∈ tableRows)
  | _ => decide

/-- Every row of the table is that of an operation. -/
theorem exists_tableRow_of_mem {r : Word × Word} (h : r ∈ tableRows) : ∃ i, r = tableRow i := by
  have hrows : tableRows = [Instr.init, .print 0, .setCursor 0 0, .clear, .scrollLeft, .scrollRight,
      .backlight, .noBacklight, .display, .noDisplay, .leftToRight, .rightToLeft].map tableRow := by decide
  rw [hrows, List.mem_map] at h
  obtain ⟨i, -, hi⟩ := h
  exact ⟨i, hi.symm⟩

/-- The word of an operation matches the operation's row (R53). -/
theorem encode_matches_row (i : Instr) : encode i &&& (tableRow i).1 = (tableRow i).2 := by
  cases i with
  | init => exact Laws.TableRow.init
  | print cp => exact Laws.TableRow.print cp
  | setCursor col row => exact Laws.TableRow.setCursor col row
  | clear => exact Laws.TableRow.clear
  | scrollLeft => exact Laws.TableRow.scrollLeft
  | scrollRight => exact Laws.TableRow.scrollRight
  | backlight => exact Laws.TableRow.backlight
  | noBacklight => exact Laws.TableRow.noBacklight
  | display => exact Laws.TableRow.display
  | noDisplay => exact Laws.TableRow.noDisplay
  | leftToRight => exact Laws.TableRow.leftToRight
  | rightToLeft => exact Laws.TableRow.rightToLeft

/-- The bits of the argument field that a format fixes (R53). -/
def argumentMask : Format → BitVec 24
  | .n => BitVec.allOnes 24
  | .p => 0
  | .c => BitVec.allOnes 8 ++ (0 : Byte) ++ (0 : Byte)

/-- Every format fixes the opcode. -/
theorem formatMask_eq (f : Format) : formatMask f = BitVec.allOnes 8 ++ argumentMask f := by
  cases f <;> decide

/-- What matching a row says of a word's two fields: the row's opcode, and zero where the format asks for it. -/
theorem fields_of_matches_row {w : Word} {i : Instr} (h : w &&& (tableRow i).1 = (tableRow i).2) :
    w.extractLsb' 24 8 = opcode i ∧ w.extractLsb' 0 24 &&& argumentMask (format i) = 0 := by
  rw [word_split w, tableRow, formatMask_eq, BitVec.and_append] at h
  have hop := congrArg (BitVec.extractLsb' 24 8) h
  have harg := congrArg (BitVec.extractLsb' 0 24) h
  rw [extract_opcode, extract_opcode] at hop
  rw [extract_argument, extract_argument] at harg
  exact ⟨BitVec.and_allOnes.symm.trans hop, harg⟩

/-- Every argument field with zeros where the format asks for them is decoded. -/
theorem decodeFields_of_argumentMask (i : Instr) {arg : BitVec 24}
    (h : arg &&& argumentMask (format i) = 0) : ∃ j, decodeFields (opcode i) arg = .ok j := by
  cases i with
  | print cp => exact ⟨.print arg, rfl⟩
  | setCursor col row =>
    have hhigh : arg.extractLsb' 16 8 = 0 := by
      rw [argument_split arg, format, argumentMask, BitVec.and_append, BitVec.and_append] at h
      have h := congrArg (BitVec.extractLsb' 16 8) h
      rwa [extract_high_byte, BitVec.and_allOnes] at h
    exact ⟨.setCursor (arg.extractLsb' 0 8) (arg.extractLsb' 8 8), if_pos hhigh⟩
  | _ =>
    obtain rfl : arg = 0 := BitVec.and_allOnes.symm.trans h
    exact ⟨_, rfl⟩

/-- Settles O4: a word that decodes is the word of its operation, which matches the operation's row; and a row
matched gives the opcode and the zeros that decoding asks for. -/
theorem decodeAcceptsExactlyTableRows : Obligations.DecodeAcceptsExactlyTableRows := by
  unfold Obligations.DecodeAcceptsExactlyTableRows
  refine fun w => ⟨fun ⟨i, hi⟩ => ?_, fun ⟨r, hr, hmatch⟩ => ?_⟩
  · refine ⟨tableRow i, tableRow_mem i, ?_⟩
    rw [← encodeOfDecode w i hi]
    exact encode_matches_row i
  · obtain ⟨i, rfl⟩ := exists_tableRow_of_mem hr
    obtain ⟨hop, harg⟩ := fields_of_matches_row hmatch
    rw [decode, hop]
    exact decodeFields_of_argumentMask i harg

/-- Settles O1: each of the fifteen words by evaluation. -/
theorem tableWordsDecode : Obligations.TableWordsDecode := by
  unfold Obligations.TableWordsDecode
  decide

end Sys2Proof
end

section
/-! PROOFS. One step of the LCDF: the word it runs (R18, R116, R193), the four ways an operation ends, what each
leaves in the trace and on the response port (R150, R155, R156), and what no operation touches. -/

namespace Sys2Proof.Machine

/-! ## The word presented -/

/-- A presented word that decodes is run (R116 stage 1). -/
theorem step_of_decode_ok {s : State} {w : Word} {i : Instr} (hfetch : s.fetch = some w)
    (hdecode : decode w = .ok i) : step s = exec i s := by
  simp only [step, hfetch, hdecode]

/-- Settles O6: the word presented is the one fetched. -/
theorem stepRunsDecodedOperation : Obligations.StepRunsDecodedOperation := by
  unfold Obligations.StepRunsDecodedOperation
  exact fun _ _ _ hpresented hdecode => step_of_decode_ok hpresented hdecode

/-- Settles O7: the placed word is the one fetched next. -/
theorem placedWordRunsNext : Obligations.PlacedWordRunsNext := by
  unfold Obligations.PlacedWordRunsNext
  exact fun s n w _ hdecode => ⟨step_of_decode_ok (s.fetch_withFetchWord n w) hdecode, rfl⟩

/-- Settles O9: beyond the words presented nothing is fetched. -/
theorem idlesAtEndOfProgram : Obligations.IdlesAtEndOfProgram := by
  unfold Obligations.IdlesAtEndOfProgram
  intro s hend
  have hfetch : s.fetch = none := List.getElem?_eq_none hend
  simp only [step, hfetch, State.idle]

/-! ## What no sequence touches -/

/-- What every element keeps, a sequence keeps. -/
theorem applyAll_const {α : Type} {f : State → α} (h : ∀ a s, f (Act.apply a s) = f s) (script : List Act)
    (s : State) : f (applyAll script s) = f s := by
  induction script generalizing s with
  | nil => rfl
  | cons a rest ih => rw [applyAll_cons, ih, h]

@[simp] theorem applyAll_devAddr (script : List Act) (s : State) :
    (applyAll script s).devAddr = s.devAddr :=
  applyAll_const (f := State.devAddr) (fun a _ => by cases a <;> rfl) script s

@[simp] theorem applyAll_blInit (script : List Act) (s : State) :
    (applyAll script s).blInit = s.blInit :=
  applyAll_const (f := State.blInit) (fun a _ => by cases a <;> rfl) script s

@[simp] theorem applyAll_program (script : List Act) (s : State) :
    (applyAll script s).program = s.program :=
  applyAll_const (f := State.program) (fun a _ => by cases a <;> rfl) script s

@[simp] theorem applyAll_opi (script : List Act) (s : State) : (applyAll script s).opi = s.opi :=
  applyAll_const (f := State.opi) (fun a _ => by cases a <;> rfl) script s

@[simp] theorem applyAll_responses (script : List Act) (s : State) :
    (applyAll script s).responses = s.responses :=
  applyAll_const (f := State.responses) (fun a _ => by cases a <;> rfl) script s

/-! ## How an operation ends -/

/-- The four ways an operation ends (R116): turned away before the LCDF is ready or for the operands of
`SET_CURSOR`, its whole sequence performed, or cut off at its first failing write. -/
inductive Ends (i : Instr) (s : State) : State → Prop where
  | notReady (hi : i ≠ .init) (hready : s.ready = false) : Ends i s (s.turnedAway .notReady)
  | operandFault (hready : s.ready = true) {col row : Byte} (hi : i = .setCursor col row)
      (hoperands : cursorAddress col row = none) : Ends i s (s.turnedAway .operandFault)
  | ok {script : List Act} (hgate : i = .init ∨ s.ready = true) (hscript : scriptOf i s = some script)
      (hok : s.AllOk (xwrites script)) : Ends i s ((applyAll script s).respond .ok)
  | failed {pre post : List Act} {v : Byte} (hgate : i = .init ∨ s.ready = true)
      (hscript : scriptOf i s = some (pre ++ .xwrite v :: post)) (hfail : s.FailsAt (xwrites pre)) :
      Ends i s (((applyAll pre s).busWrite v).raise .transportErr)

/-- Every operation ends in one of the four. -/
theorem exec_ends {i : Instr} {s t : State} (h : exec i s = .next t) : Ends i s t := by
  rcases exec_cases h with ⟨hi, hready, rfl⟩ | ⟨hgate, ⟨col, row, rfl, hnone, rfl⟩ | ⟨script, hsc, rfl⟩⟩
  · exact .notReady hi hready
  · exact .operandFault (hgate.resolve_left nofun) rfl hnone
  · rcases s.perform_cases script with ⟨hok, ht, _⟩ | ⟨pre, v, post, rfl, hfail, ht, _⟩
    · exact ht ▸ .ok hgate hsc hok
    · exact ht ▸ .failed hgate hsc hfail

/-! ## The events of an operation -/

@[simp] theorem newEvents_turnedAway (s : State) (c : ResponseCode) :
    s.newEvents (s.turnedAway c) = [] := by
  simp [State.newEvents]

/-- With every write answered `OK` an operation's events are those of its sequence. -/
theorem newEvents_ok {s : State} {script : List Act} (hok : s.AllOk (xwrites script)) :
    s.newEvents ((applyAll script s).respond .ok) = okEvents s.devAddr script := by
  simp [State.newEvents, (applyAll_allOk hok).1, okEvents]

/-- The answer that the first failing write of a sequence gets. -/
theorem nextAnswer_of_failsAt {s : State} {pre : List Act} (hfail : s.FailsAt (xwrites pre)) :
    (applyAll pre s).nextAnswer = .fail := by
  obtain ⟨-, hanswers, hdraws⟩ := applyAll_allOk hfail.1
  rw [State.nextAnswer_eq]
  simpa [State.answerAt, hanswers, hdraws] using hfail.2

/-- What a sequence cut off at its first failing write leaves in the trace. -/
theorem trace_failed {s : State} {pre : List Act} (hfail : s.FailsAt (xwrites pre)) (v : Byte) :
    (((applyAll pre s).busWrite v).raise .transportErr).trace =
      s.trace ++ (okEvents s.devAddr pre ++ [.write s.devAddr 0x00 v .fail]) := by
  rw [State.raise_transportErr, State.respond_trace, State.setErr_trace, State.busWrite_trace,
    (applyAll_allOk hfail.1).1, nextAnswer_of_failsAt hfail, applyAll_devAddr, List.append_assoc]
  rfl

/-- An operation cut off at its first failing write has the events up to that write, which is the last. -/
theorem newEvents_failed {s : State} {pre : List Act} (hfail : s.FailsAt (xwrites pre)) (v : Byte) :
    s.newEvents (((applyAll pre s).busWrite v).raise .transportErr) =
      okEvents s.devAddr pre ++ [.write s.devAddr 0x00 v .fail] := by
  rw [State.newEvents, trace_failed hfail, List.drop_left]

/-- The trace after an operation is the one before it and the operation's own events (R42). -/
theorem exec_trace {i : Instr} {s t : State} (h : exec i s = .next t) :
    t.trace = s.trace ++ s.newEvents t := by
  cases exec_ends h with
  | notReady | operandFault => simp
  | ok _ _ hok => rw [newEvents_ok hok]; exact (applyAll_allOk hok).1
  | failed _ _ hfail => rw [newEvents_failed hfail, trace_failed hfail]

/-! ## The answers in the events -/

/-- No event of a sequence without a failure is a failed write. -/
theorem answeredOk_of_mem_okEvents {dev : BitVec 7} {script : List Act} {e : Event}
    (h : e ∈ okEvents dev script) : e.answeredOk = e := by
  obtain ⟨a, -, ha⟩ := List.mem_filterMap.mp h
  cases a <;> cases ha <;> rfl

/-- The answers put aside, the events of a sequence without a failure stay as they are. -/
@[simp] theorem map_answeredOk_okEvents (dev : BitVec 7) (script : List Act) :
    (okEvents dev script).map Event.answeredOk = okEvents dev script :=
  (List.map_congr_left (g := id) fun _ h => answeredOk_of_mem_okEvents h).trans (List.map_id _)

/-- An operation cut off has a failed write among its events. -/
theorem exists_failed {s : State} {pre : List Act} (hfail : s.FailsAt (xwrites pre)) (v : Byte) :
    ∃ e ∈ s.newEvents (((applyAll pre s).busWrite v).raise .transportErr), e.answeredOk ≠ e :=
  ⟨.write s.devAddr 0x00 v .fail, by simp [newEvents_failed hfail], by simp [Event.answeredOk]⟩

/-- An operation that ended `OK` has none. -/
theorem not_exists_failed {s : State} {script : List Act} (hok : s.AllOk (xwrites script)) :
    ¬ ∃ e ∈ s.newEvents ((applyAll script s).respond .ok), e.answeredOk ≠ e := by
  rw [newEvents_ok hok]
  exact fun ⟨_, hmem, hne⟩ => hne (answeredOk_of_mem_okEvents hmem)

/-! ## What an operation leaves unchanged -/

/-- What the controller latched is only added to (R37). -/
theorem exec_latches_extends {i : Instr} {s t : State} (h : exec i s = .next t) :
    s.latches <+: t.latches := by
  cases exec_ends h with
  | notReady | operandFault => exact List.prefix_refl _
  | ok _ _ hok => exact ⟨_, (applyAll_latches hok).1.symm⟩
  | failed _ _ hfail =>
    rw [State.raise_transportErr, State.respond_latches, State.setErr_latches, State.busWrite_latches,
      (applyAll_latches hfail.1).1, List.append_assoc]
    exact List.prefix_append _ _

/-- Settles O22: by the way the operation ends; no element of a sequence touches what is listed, and each of the
four ways gives the one response. -/
theorem operationFrame : Obligations.OperationFrame := by
  unfold Obligations.OperationFrame
  intro i s t h
  obtain ⟨latches, hlatches⟩ := exec_latches_extends h
  have hread : ∀ a, a ≠ Config.regPtr.toNat → Memory.read t.expander a = Memory.read s.expander a := by
    intro a ha
    exact exec_keeps (P := fun u => Memory.read u.expander a = Memory.read s.expander a) h rfl
      (fun _ _ act _ u hu => (act.read_apply_other u ha).trans hu) (fun _ hu => hu) fun _ _ hu => hu
  suffices hfixed : t.devAddr = s.devAddr ∧ t.blInit = s.blInit ∧ t.program = s.program ∧
      t.opi = s.opi + 1 ∧ ∃ r, t.responses = s.responses ++ [r] ∧ r.ready = t.ready ∧ r.err = t.err by
    obtain ⟨hdev, hbl, hprogram, hopi, hresponse⟩ := hfixed
    exact ⟨hdev, hbl, hprogram, hopi, ⟨_, exec_trace h⟩, ⟨latches, hlatches.symm⟩,
      fun hi => exec_pairedFrom hi h, hresponse, hread⟩
  cases exec_ends h <;> simp [State.raise_transportErr]

/-- Settles O33: neither an element of a sequence nor the error bit touches `opi` or the responses, and a response
goes with counting the operation. -/
theorem stepKeepsAnswered : Obligations.StepKeepsAnswered := by
  unfold Obligations.StepKeepsAnswered
  intro s t hs h
  refine step_keeps (P := State.Answered) h hs (fun _ _ _ a _ u hu => ?_) (fun _ hu => hu) fun u c hu => ?_
  · cases a <;> exact hu
  · simpa [State.Answered] using hu

/-- Settles O34: a bus write stores at the output register, and nothing else stores. -/
theorem stepKeepsMemoryCanonical : Obligations.StepKeepsMemoryCanonical := by
  unfold Obligations.StepKeepsMemoryCanonical
  intro s t hs h
  refine step_keeps (P := State.MemoryOk) h hs (fun _ _ _ a _ u hu => ?_) (fun _ hu => hu) fun _ _ hu => hu
  cases a with
  | xwrite v =>
    refine ⟨Memory.wf_write u.expander (u.stored v) (by decide) hu.1, ?_⟩
    rw [Act.apply, State.busWrite_expander, show (0 : Nat) = Config.regPtr.toNat from rfl,
      Memory.read_write_same]
    exact Option.some_ne_none _
  | _ => exact hu

/-! ## The order of the checks -/

/-- An operation whose sequence is performed has passed the gate and the operand check (R116 stages 2 and 3). -/
theorem checks_passed {i : Instr} {s : State} {script : List Act} (hgate : i = .init ∨ s.ready = true)
    (h : scriptOf i s = some script) :
    ¬ (i ≠ .init ∧ s.ready = false) ∧ ¬ ∃ col row, i = .setCursor col row ∧ cursorAddress col row = none := by
  constructor
  · rintro ⟨hi, hready⟩
    simp [hi, hready] at hgate
  · rintro ⟨col, row, rfl, hnone⟩
    simp [scriptOf, hnone] at h

/-- The code of an operation's one response by the checks it passed (R155): each way of ending rules the
conditions of the other codes out. -/
theorem exec_response {i : Instr} {s t : State} (h : exec i s = .next t) :
    ∃ r, t.responses = s.responses ++ [r] ∧ r.code ≠ .illegalOp ∧
      (r.code = .notReady ↔ i ≠ .init ∧ s.ready = false) ∧
      (r.code = .operandFault ↔
        s.ready = true ∧ ∃ col row, i = .setCursor col row ∧ cursorAddress col row = none) ∧
      (r.code = .transportErr ↔ ∃ e ∈ s.newEvents t, e.answeredOk ≠ e) := by
  cases exec_ends h with
  | notReady hi hready => exact ⟨_, rfl, by simp [hi, hready]⟩
  | operandFault hready hi hoperands => exact ⟨_, rfl, by simp [hi, hready, hoperands]⟩
  | ok hgate hscript hok =>
    obtain ⟨hready, hoperands⟩ := checks_passed hgate hscript
    exact ⟨_, congrArg (· ++ [_]) (applyAll_responses _ s), nofun, iff_of_false nofun hready,
      iff_of_false nofun fun hf => hoperands hf.2, iff_of_false nofun (not_exists_failed hok)⟩
  | failed hgate hscript hfail =>
    obtain ⟨hready, hoperands⟩ := checks_passed hgate hscript
    exact ⟨_, congrArg (· ++ [_]) (applyAll_responses _ s), nofun, iff_of_false nofun hready,
      iff_of_false nofun fun hf => hoperands hf.2, iff_of_true rfl (exists_failed hfail _)⟩

/-- Settles O12: an illegal word is turned away with no event; a legal one gets the response of its operation. -/
theorem checksInOrder : Obligations.ChecksInOrder := by
  unfold Obligations.ChecksInOrder
  intro s w hfetch
  cases hdecode : decode w with
  | error e => exact ⟨_, _, step_of_decode_error hfetch hdecode, rfl, by simp⟩
  | ok i =>
    obtain ⟨r, hresponses, hcode, hnotReady, hoperand, htransport⟩ := exec_response (exec_eq i s)
    refine ⟨_, r, (step_of_decode_ok hfetch hdecode).trans (exec_eq i s), hresponses, ?_, ?_, ?_, htransport⟩
    · simpa using hcode
    · simpa using hnotReady
    · simpa using hoperand

/-! ## The operand check of `SET_CURSOR` -/

/-- The nine-bit sum does not wrap (R117(d)). -/
theorem toNat_cursorSum (col offset : Byte) : (cursorSum col offset).toNat = col.toNat + offset.toNat := by
  have hcol := col.isLt
  have hoffset := offset.isLt
  simp only [cursorSum, BitVec.toNat_add, BitVec.toNat_setWidth]
  omega

/-- The operand check in a row that has an offset (R104, R105). -/
theorem cursorAddress_of_offset {row offset : Byte} (h : Config.rowOffset row = some offset) (col : Byte) :
    cursorAddress col row = if 0xFF < col.toNat + offset.toNat then none else some (col + offset) := by
  have hlow : (cursorSum col offset).setWidth 8 = col + offset := by
    apply BitVec.eq_of_toNat_eq
    rw [BitVec.toNat_setWidth, toNat_cursorSum, BitVec.toNat_add]
  simp only [cursorAddress, h, hlow, BitVec.lt_def, toNat_cursorSum]
  rfl

/-- A `SET_CURSOR` whose operands fail the check has no other effect than its response (R152). -/
theorem exec_of_operandFault {col row : Byte} {s : State} (hready : s.ready = true)
    (hoperands : cursorAddress col row = none) :
    exec (.setCursor col row) s = .next (s.turnedAway .operandFault) := by
  simp [exec_eq, outcome, scriptOf, hready, hoperands]

/-- Settles O11: both conditions fail the operand check. -/
theorem setCursorOperandFault : Obligations.SetCursorOperandFault := by
  unfold Obligations.SetCursorOperandFault
  refine ⟨rfl, fun col row s hready hfault => exec_of_operandFault hready ?_⟩
  rcases hfault with hrow | ⟨offset, hoffset, hsum⟩
  · simp only [cursorAddress, Config.rowOffset_eq_none hrow]
  · rw [cursorAddress_of_offset hoffset, if_pos hsum]

/-! ## Faults are precise -/

/-- The code of the last response is that of the operation that ended last. -/
@[simp] theorem State.lastCode_respond (s : State) (c : ResponseCode) : (s.respond c).lastCode = some c := by
  simp [State.lastCode]

@[simp] theorem State.lastCode_turnedAway (s : State) (c : ResponseCode) :
    (s.turnedAway c).lastCode = some c := by
  simp [State.lastCode]

/-- How many bus writes each operation's sequence makes when none fails (R115). -/
theorem xwrites_scriptOf {i : Instr} {s : State} {script : List Act} (h : scriptOf i s = some script) :
    xwrites script = busWrites i := by
  cases i <;> simp only [scriptOf, Option.some.injEq, Option.map_eq_some_iff] at h
  case setCursor =>
    obtain ⟨_, _, rfl⟩ := h
    rfl
  all_goals
    subst h
    rfl

/-- No operation makes more bus writes than `INIT`. -/
theorem busWrites_le (i : Instr) : busWrites i ≤ 42 := by
  cases i <;> simp [busWrites]

/-- A script of the transport's answers with enough of them `OK`. -/
theorem State.allOk_withAnswers (s : State) {m n : Nat} (h : m ≤ n) :
    (s.withAnswers (List.replicate n .ok)).AllOk m := by
  intro k hk
  simp [State.answerAt, State.withAnswers, List.getElem?_replicate_of_lt (Nat.lt_of_lt_of_le hk h)]

/-- An operation that passes the gate and has a sequence performs it (R116). -/
theorem exec_of_scriptOf {i : Instr} {s : State} {script : List Act} (hgate : i = .init ∨ s.ready = true)
    (hscript : scriptOf i s = some script) : exec i s = .next (s.perform script) := by
  rw [exec_eq, outcome, if_neg (checks_passed hgate hscript).1, hscript]

/-- With every write answered `OK` it ends `OK`. -/
theorem exec_allOk {i : Instr} {s : State} {script : List Act} (hgate : i = .init ∨ s.ready = true)
    (hscript : scriptOf i s = some script) (hok : s.AllOk (xwrites script)) :
    exec i s = .next ((applyAll script s).respond .ok) := by
  rw [exec_of_scriptOf hgate hscript, State.perform_allOk hok]

/-- The events of the run of an operation in which every write is answered `OK`. -/
theorem newEvents_withAnswers {i : Instr} {s u : State} {script : List Act}
    (hgate : i = .init ∨ s.ready = true) (hscript : scriptOf i s = some script)
    (h : exec i (s.withAnswers (List.replicate 42 .ok)) = .next u) :
    s.newEvents u = okEvents s.devAddr script := by
  have hok : (s.withAnswers (List.replicate 42 .ok)).AllOk (xwrites script) :=
    s.allOk_withAnswers (xwrites_scriptOf hscript ▸ busWrites_le i)
  have hscript' : scriptOf i (s.withAnswers (List.replicate 42 .ok)) = some script := by
    rw [scriptOf_withAnswers, hscript]
  rw [exec_allOk (s := s.withAnswers (List.replicate 42 .ok)) hgate hscript' hok, Host.Outcome.next.injEq] at h
  subst h
  exact newEvents_ok hok

/-- Settles O27: an operation turned away is turned away under all answers, and otherwise the sequence is the same
under all answers, so a first failing write leaves the first of the events. -/
theorem faultsArePrecise : Obligations.FaultsArePrecise := by
  unfold Obligations.FaultsArePrecise
  intro i s t u ht hu
  cases exec_ends ht with
  | notReady hi hready =>
    rw [exec_eq, outcome_of_not_ready (s := s.withAnswers (List.replicate 42 .ok)) hi hready,
      Host.Outcome.next.injEq] at hu
    subst hu
    simp [State.newEvents, State.withAnswers]
  | operandFault hready hi hoperands =>
    subst hi
    rw [exec_of_operandFault (s := s.withAnswers (List.replicate 42 .ok)) hready hoperands,
      Host.Outcome.next.injEq] at hu
    subst hu
    simp [State.newEvents, State.withAnswers]
  | ok hgate hscript hok =>
    rw [newEvents_withAnswers hgate hscript hu, newEvents_ok hok]
    refine ⟨by simp, fun e he => ?_, .inr ⟨by simp, rfl⟩⟩
    exact answeredOk_of_mem_okEvents (List.mem_of_mem_dropLast he)
  | failed hgate hscript hfail =>
    rw [newEvents_withAnswers hgate hscript hu, newEvents_failed hfail]
    refine ⟨by simp [Event.answeredOk], fun e he => ?_,
      .inl ⟨State.lastCode_respond .., _, _, _, List.getLast?_concat ..⟩⟩
    rw [List.dropLast_concat] at he
    exact answeredOk_of_mem_okEvents he

end Sys2Proof.Machine
end

section
/-! PROOFS. The operations complete (R102 to R114, R130): with every write answered `OK` an operation leaves the
events of its sequence, the registers as its elements set them, and nothing else changed; and the counts of
R115. -/

namespace Sys2Proof.Machine

/-! ## A sequence with every write answered `OK` -/

/-- The same machine with other contents of the five registers. -/
def State.withRegisters (s : State) (r : Registers) : State :=
  { s with ready := r.ready, err := r.err, bl := r.bl, dctl := r.dctl, emode := r.emode }

/-- What a sequence does to the registers. -/
def onRegistersAll (script : List Act) (r : Registers) : Registers :=
  script.foldl (fun r a => a.onRegisters r) r

/-- The last value a sequence writes, none of its writes failing. -/
def lastValue (dev : BitVec 7) (script : List Act) : Option Byte :=
  (Trace.okValues (okEvents dev script)).getLast?

/-- The last value of two sequences is that of the second, if it writes at all. -/
theorem lastValue_append (dev : BitVec 7) (a b : List Act) :
    lastValue dev (a ++ b) = (lastValue dev b).or (lastValue dev a) := by
  rw [lastValue, okEvents_append, Trace.okValues_append, List.getLast?_append]
  rfl

/-- A nibble transmission ends with the enable line low again (R90). -/
theorem lastValue_nibble (dev : BitVec 7) (n : Nibble) (rs bl : Bool) :
    lastValue dev (nibble n rs bl) = some (pack n rs false bl) := by
  rw [nibble_eq]
  rfl

/-- A frame ends with its low nibble (R100). -/
theorem lastValue_frame (dev : BitVec 7) (v : Byte) (rs bl : Bool) :
    lastValue dev (frame v rs bl) = some (pack (lowNibble v) rs false bl) := by
  rw [frame, lastValue_append, lastValue_nibble, Option.some_or]

/-- A delay after a sequence writes nothing. -/
theorem lastValue_append_delay (dev : BitVec 7) (a : List Act) (us : Nat) :
    lastValue dev (a ++ [.delay us]) = lastValue dev a := by
  rw [lastValue_append]
  rfl

/-- The last write of `INIT`, the third of the low nibble of the return home (R139). -/
theorem lastValue_init (dev : BitVec 7) (bl : Bool) :
    lastValue dev (initScript bl) = some (pack 0x2 false false bl) := by
  rw [initScript, initHome, initTerminal, lastValue_append, lastValue_append, lastValue_append_delay,
    lastValue_frame]
  rfl

/-- The state in which an operation ends whose writes are all answered `OK` (R7, R36, R37, R42): the events, the
latch events and the last value are those of its sequence. -/
theorem respond_applyAll {script : List Act} {s : State} {v : Byte} (hok : s.AllOk (xwrites script))
    (hlast : lastValue s.devAddr script = some v) :
    (applyAll script s).respond .ok =
      { s.withRegisters (onRegistersAll script s.registers) with
        pairedFrom := (applyAll script s).pairedFrom }.endedOk
          (okEvents s.devAddr script) (xwrites script) v := by
  obtain ⟨htrace, hanswers, hdraws⟩ := applyAll_allOk hok
  have hlatches := (applyAll_latches hok).1
  have hexpander := applyAll_expander hok
  change (Trace.okValues (script.filterMap _)).getLast? = some v at hlast
  rw [hlast] at hexpander
  have hdev := applyAll_devAddr script s
  have hblInit := applyAll_blInit script s
  have hprogram := applyAll_program script s
  have hopi := applyAll_opi script s
  have hresponses := applyAll_responses script s
  have hregisters := registers_applyAll script s
  change _ = onRegistersAll script s.registers at hregisters
  rw [← hregisters]
  generalize applyAll script s = u at *
  cases u
  subst htrace hanswers hdraws hlatches hexpander hdev hblInit hprogram hopi hresponses
  rfl

/-- Where the pairing of nibbles starts after a sequence without the 4-bit switch (R37). -/
theorem applyAll_pairedFrom {script : List Act} (h : Act.switch4 ∉ script) (s : State) :
    (applyAll script s).pairedFrom = s.pairedFrom := by
  induction script generalizing s with
  | nil => rfl
  | cons a rest ih =>
    rw [applyAll_cons, ih fun hmem => h (List.mem_cons_of_mem a hmem)]
    cases a with
    | switch4 => exact absurd List.mem_cons_self h
    | _ => rfl

/-- An operation other than `INIT` completes. -/
theorem exec_completes {i : Instr} {s : State} {script : List Act} {v : Byte} (hi : i ≠ .init)
    (hready : s.ready = true) (hscript : scriptOf i s = some script) (hok : s.AllOk (xwrites script))
    (hlast : lastValue s.devAddr script = some v) :
    exec i s = .next ((s.withRegisters (onRegistersAll script s.registers)).endedOk
      (okEvents s.devAddr script) (xwrites script) v) := by
  rw [exec_allOk (.inr hready) hscript hok, respond_applyAll hok hlast,
    applyAll_pairedFrom (switch4_not_mem hi hscript)]
  rfl

/-! ## The framed operations -/

/-- The truncation of a code point is its low byte (R102, D18). -/
theorem truncateCodePoint_eq (cp : BitVec 24) : truncateCodePoint cp = cp.setWidth 8 :=
  by ext; simp [truncateCodePoint]

/-- Settles O13: the sequence is the frame of the low byte, which changes no register. -/
theorem printCompletes : Obligations.PrintCompletes := by
  unfold Obligations.PrintCompletes
  intro cp s hready hok
  rw [exec_completes (i := .print cp) nofun hready rfl hok (lastValue_frame ..), okEvents_frame,
    truncateCodePoint_eq]
  rfl

/-- Settles O14: the operand check passes with the sum, which is what the frame sends. -/
theorem setCursorCompletes : Obligations.SetCursorCompletes := by
  unfold Obligations.SetCursorCompletes
  intro col row offset s hready hok hoffset hsum
  have hscript : scriptOf (.setCursor col row) s =
      some (frame (Config.cmdSetDdram ||| (col + offset)) false s.bl) := by
    rw [scriptOf, cursorAddress_of_offset hoffset, if_neg (Nat.not_lt.mpr hsum)]
    rfl
  rw [exec_completes (i := .setCursor col row) nofun hready hscript hok (lastValue_frame ..), okEvents_frame]
  rfl

/-- Settles O15: the delay of the clear cycle comes after the frame. -/
theorem clearCompletes : Obligations.ClearCompletes := by
  unfold Obligations.ClearCompletes
  intro s hready hok
  rw [exec_completes (i := .clear) nofun hready rfl hok
    ((lastValue_append_delay ..).trans (lastValue_frame ..)), clearScript, okEvents_append, okEvents_frame]
  rfl

/-- Settles O16: each sequence is one frame. -/
theorem scrollsComplete : Obligations.ScrollsComplete := by
  unfold Obligations.ScrollsComplete
  intro s hready hok
  constructor
  · rw [exec_completes (i := .scrollLeft) nofun hready rfl hok (lastValue_frame ..), okEvents_frame]
    rfl
  · rw [exec_completes (i := .scrollRight) nofun hready rfl hok (lastValue_frame ..), okEvents_frame]
    rfl

/-- Settles O17: the one write is of the byte packed with the new backlight bit. -/
theorem backlightsComplete : Obligations.BacklightsComplete := by
  unfold Obligations.BacklightsComplete
  intro s hready hok
  exact ⟨exec_completes (i := .backlight) nofun hready rfl hok rfl,
    exec_completes (i := .noBacklight) nofun hready rfl hok rfl⟩

/-- Settles O18: the register is written before the frame that sends it. -/
theorem displaysComplete : Obligations.DisplaysComplete := by
  unfold Obligations.DisplaysComplete
  intro s hready hok
  constructor
  · rw [exec_completes (i := .display) nofun hready rfl hok (lastValue_frame ..), displayScript,
      okEvents_setDctl,
      okEvents_frame]
    rfl
  · rw [exec_completes (i := .noDisplay) nofun hready rfl hok (lastValue_frame ..), displayScript,
      okEvents_setDctl,
      okEvents_frame]
    rfl

/-- Settles O19: the register is written before the frame that sends it. -/
theorem directionsComplete : Obligations.DirectionsComplete := by
  unfold Obligations.DirectionsComplete
  intro s hready hok
  constructor
  · rw [exec_completes (i := .leftToRight) nofun hready rfl hok (lastValue_frame ..), entryModeScript,
      okEvents_setEmode,
      okEvents_frame]
    rfl
  · rw [exec_completes (i := .rightToLeft) nofun hready rfl hok (lastValue_frame ..), entryModeScript,
      okEvents_setEmode,
      okEvents_frame]
    rfl

/-! ## `INIT` -/

/-- The sequence of `INIT` up to the 4-bit switch (R130 steps 0 to 3). -/
def initBeforeSwitch (bl : Bool) : List Act :=
  initEntry bl ++ initPower ++ initReset8 bl ++ nibble Config.nibSet4 false bl

/-- The sequence of `INIT` after the 4-bit switch (R130 steps 4 to 8). -/
def initAfterSwitch (bl : Bool) : List Act :=
  initFunctionSet bl ++ initDisplay bl ++ initClear bl ++ initEntryMode bl ++ initHome bl ++ initTerminal

theorem initScript_eq (bl : Bool) :
    initScript bl = initBeforeSwitch bl ++ .switch4 :: initAfterSwitch bl := by
  simp only [initScript, initBeforeSwitch, initAfterSwitch, initSet4, List.append_assoc, List.cons_append,
    List.nil_append]

/-- The 4-bit switch is performed once. -/
theorem switch4_not_mem_initAfterSwitch (bl : Bool) : .switch4 ∉ initAfterSwitch bl := by
  cases bl <;> decide

theorem okEvents_initScript (dev : BitVec 7) (bl : Bool) :
    okEvents dev (initScript bl) =
      okEvents dev (initBeforeSwitch bl) ++ okEvents dev (initAfterSwitch bl) := by
  rw [initScript_eq, okEvents_append, okEvents_switch4]

/-- Before the 4-bit switch the controller latches the four lone nibbles (R133, R134). -/
theorem latchEvents_initBeforeSwitch (s : State) (bl : Bool) (rest : List Byte) :
    latchEvents (Trace.okValues (okEvents s.devAddr (initBeforeSwitch bl)) ++ rest) =
      [(false, 0x3), (false, 0x3), (false, 0x3), (false, 0x2)] ++ latchEvents rest := by
  simp only [initBeforeSwitch, initEntry, initPower, initReset8, okEvents_append, okEvents_nibble,
    okEvents_setReady, okEvents_setErr, okEvents_setBl, okEvents_delay, okEvents_nil, Trace.okValues_append,
    Trace.okValues_delay, Trace.okValues_nil, List.append_assoc, List.nil_append, latchEvents_nibble]
  rfl

/-- With the nibble no one sent before them, if any (R94): the first write has its enable bit 0. -/
theorem latchEvents_xout_init (s : State) (bl : Bool) (rest : List Byte) :
    latchEvents (s.xout :: (Trace.okValues (okEvents s.devAddr (initBeforeSwitch bl)) ++ rest)) =
      s.strayLatch ++ [(false, 0x3), (false, 0x3), (false, 0x3), (false, 0x2)] ++ latchEvents rest := by
  rw [List.append_assoc, ← latchEvents_initBeforeSwitch s bl rest]
  exact latchEvents_stray s (pack_en Config.nibReset8 false false bl) _

/-- Where the pairing of nibbles starts after `INIT`: after the four lone nibbles (R37). -/
theorem applyAll_init_pairedFrom {s : State} (hok : s.AllOk 42) (bl : Bool) :
    (applyAll (initScript bl) s).pairedFrom = s.latches.length + s.strayLatch.length + 4 := by
  have hbefore : s.AllOk (xwrites (initBeforeSwitch bl)) := hok.mono (by decide : 12 ≤ 42)
  have hlatch := latchEvents_xout_init s bl []
  rw [List.append_nil] at hlatch
  rw [initScript_eq, applyAll_append, applyAll_cons, applyAll_pairedFrom (switch4_not_mem_initAfterSwitch bl),
    Act.apply, State.switch4_pairedFrom, (applyAll_latches hbefore).1, ← okEvents, hlatch]
  simp [latchEvents, Nat.add_assoc]

/-- The registers after `INIT` (R131, R136, R138, R140). -/
theorem onRegistersAll_init (bl : Bool) (r : Registers) :
    onRegistersAll (initScript bl) r = ⟨true, false, bl, 0x04, 0x02⟩ := rfl

/-- Settles O20: the sequence leaves the table of R142 and the baselines in the registers. -/
theorem initCompletes : Obligations.InitCompletes := by
  unfold Obligations.InitCompletes
  intro s hok
  rw [exec_allOk (.inl rfl) rfl hok, respond_applyAll hok (lastValue_init ..), okEvents_init,
    applyAll_init_pairedFrom hok, onRegistersAll_init, xwrites_initScript]
  rfl

/-! ## What the controller latches in an operation -/

/-- A frame is latched as its two nibbles (R101). -/
theorem latched_frame (s : State) (v : Byte) (rs bl : Bool) :
    Trace.latched (okEvents s.devAddr (frame v rs bl)) = [(rs, highNibble v), (rs, lowNibble v)] := by
  have hframe := latchEvents_frame s v rs bl []
  rwa [List.append_nil, ← okEvents_frame] at hframe

/-- The operand check that passes gives the column plus the row's offset (R105). -/
theorem cursorAddress_eq_some {col row a : Byte} (h : cursorAddress col row = some a) :
    ∃ offset, Config.rowOffset row = some offset ∧ a = col + offset := by
  cases hoffset : Config.rowOffset row with
  | none => simp [cursorAddress, hoffset] at h
  | some offset =>
    rw [cursorAddress_of_offset hoffset] at h
    split at h
    · cases h
    · exact ⟨offset, rfl, (Option.some.inj h).symm⟩

/-- The nibbles the controller latches in an operation other than `INIT`, from a low enable line and with every
write answered `OK`, are the pair of the byte the operation stands for, or none (R101, R109, R115). -/
theorem latched_scriptOf {i : Instr} {s : State} {script : List Act} (hi : i ≠ .init)
    (h : scriptOf i s = some script) :
    (Trace.latched (okEvents s.devAddr script)).length = latchCount i ∧
      Trace.pairUp (Trace.latched (okEvents s.devAddr script)) = delivered i s := by
  have hframe (v : Byte) (rs : Bool) :
      (Trace.latched (okEvents s.devAddr (frame v rs s.bl))).length = 2 ∧
        Trace.pairUp (Trace.latched (okEvents s.devAddr (frame v rs s.bl))) = [(rs, v)] := by
    rw [latched_frame, Trace.pairUp_frame]
    exact ⟨rfl, rfl⟩
  cases i <;> simp only [scriptOf, Option.some.injEq, Option.map_eq_some_iff] at h
  case init => exact absurd rfl hi
  case print cp =>
    rw [← h, delivered, ← truncateCodePoint_eq]
    exact hframe _ _
  case setCursor col row =>
    obtain ⟨a, ha, rfl⟩ := h
    obtain ⟨offset, hoffset, rfl⟩ := cursorAddress_eq_some ha
    simp only [delivered, hoffset]
    exact hframe _ _
  case clear =>
    rw [← h, clearScript, okEvents_append, Trace.latched, Trace.okValues_append, okEvents_delay,
      okEvents_nil, Trace.okValues_delay, Trace.okValues_nil, List.append_nil, ← Trace.latched]
    exact hframe _ _
  case backlight | noBacklight =>
    rw [← h]
    exact ⟨rfl, rfl⟩
  case scrollLeft | scrollRight | display | noDisplay | leftToRight | rightToLeft =>
    rw [← h]
    exact hframe _ _

/-- After the 4-bit switch of `INIT` the controller latches the ten nibbles of the five command bytes
(R135 to R139). -/
theorem latched_initAfterSwitch (s : State) (bl : Bool) :
    Trace.latched (okEvents s.devAddr (initAfterSwitch bl)) =
      [(false, 0x2), (false, 0x8), (false, 0x0), (false, 0xC), (false, 0x0), (false, 0x1), (false, 0x0),
        (false, 0x6), (false, 0x0), (false, 0x2)] := by
  simp only [initAfterSwitch, initFunctionSet, initDisplay, displayScript, initClear, clearScript,
    initEntryMode, entryModeScript, initHome, initTerminal, okEvents_append, okEvents_frame, okEvents_setDctl,
    okEvents_setEmode, okEvents_setReady, okEvents_delay, okEvents_nil, Trace.latched, Trace.okValues_append,
    Trace.okValues_delay, Trace.okValues_nil, List.append_assoc, List.nil_append, latchEvents_frame]
  rfl

/-! ## The counts of R115 -/

/-- The events of a sequence hold its writes. -/
theorem writeCount_okEvents (dev : BitVec 7) (script : List Act) :
    Trace.writeCount (okEvents dev script) = xwrites script := by
  induction script with
  | nil => rfl
  | cons a rest ih =>
    cases a with
    | xwrite v => exact congrArg (· + 1) ih
    | _ => exact ih

@[simp] theorem Trace.delayCount_append (a b : List Event) :
    Trace.delayCount (a ++ b) = Trace.delayCount a + Trace.delayCount b := by
  induction a with
  | nil => simp [Trace.delayCount]
  | cons e a ih => cases e <;> simp [Trace.delayCount, ih, Nat.add_right_comm]

@[simp] theorem Trace.delayTotal_append (a b : List Event) :
    Trace.delayTotal (a ++ b) = Trace.delayTotal a + Trace.delayTotal b := by
  induction a with
  | nil => simp [Trace.delayTotal]
  | cons e a ih => cases e <;> simp [Trace.delayTotal, ih, Nat.add_assoc]

/-- The two delays of a nibble transmission (R90). -/
theorem State.delays_nibbleTrace (s : State) (n : Nibble) (rs bl : Bool) :
    Trace.delayCount (s.nibbleTrace n rs bl) = 2 ∧ Trace.delayTotal (s.nibbleTrace n rs bl) = 51 := ⟨rfl, rfl⟩

/-- The four delays of a frame (R100). -/
theorem State.delays_frameTrace (s : State) (v : Byte) (rs bl : Bool) :
    Trace.delayCount (s.frameTrace v rs bl) = 4 ∧ Trace.delayTotal (s.frameTrace v rs bl) = 102 := ⟨rfl, rfl⟩

/-- The delays of the table of R142. -/
theorem State.delays_initTrace (s : State) (bl : Bool) :
    Trace.delayCount (s.initTrace bl) = 34 ∧ Trace.delayTotal (s.initTrace bl) = 53864 := by
  constructor <;>
    simp [State.initTrace, State.delays_nibbleTrace, State.delays_frameTrace, Trace.delayCount,
      Trace.delayTotal]

/-- The delays of every operation's sequence (R115, R192). -/
theorem delays_scriptOf {i : Instr} {s : State} {script : List Act} (h : scriptOf i s = some script) :
    Trace.delayCount (okEvents s.devAddr script) = delayRequests i ∧
      Trace.delayTotal (okEvents s.devAddr script) = delayBound i := by
  cases i <;> simp only [scriptOf, Option.some.injEq, Option.map_eq_some_iff] at h
  case init =>
    rw [← h, okEvents_init]
    exact s.delays_initTrace s.blInit
  case setCursor =>
    obtain ⟨_, _, rfl⟩ := h
    rw [okEvents_frame]
    exact s.delays_frameTrace _ _ _
  case clear =>
    rw [← h, clearScript, okEvents_append, okEvents_frame, Trace.delayCount_append, Trace.delayTotal_append]
    exact ⟨rfl, rfl⟩
  case backlight | noBacklight =>
    rw [← h]
    exact ⟨rfl, rfl⟩
  case print | scrollLeft | scrollRight =>
    rw [← h, okEvents_frame]
    exact s.delays_frameTrace _ _ _
  case display | noDisplay =>
    rw [← h, displayScript, okEvents_setDctl, okEvents_frame]
    exact s.delays_frameTrace _ _ _
  case leftToRight | rightToLeft =>
    rw [← h, entryModeScript, okEvents_setEmode, okEvents_frame]
    exact s.delays_frameTrace _ _ _

/-- The latch events of every operation's sequence (R115). -/
theorem length_latched_scriptOf {i : Instr} {s : State} {script : List Act}
    (h : scriptOf i s = some script) : (Trace.latched (okEvents s.devAddr script)).length = latchCount i := by
  by_cases hi : i = .init
  · subst hi
    cases h
    rw [Trace.latched, okEvents_initScript, Trace.okValues_append, latchEvents_initBeforeSwitch,
      ← Trace.latched, latched_initAfterSwitch]
    rfl
  · exact (latched_scriptOf hi h).1

/-- An operation accepted has a sequence (R116 stages 2 and 3). -/
theorem scriptOf_of_accepts {i : Instr} {s : State} (h : s.Accepts i) : ∃ script, scriptOf i s = some script := by
  cases i with
  | setCursor col row =>
    obtain ⟨a, ha⟩ := Option.ne_none_iff_exists'.mp (h.2 col row rfl)
    exact ⟨_, by rw [scriptOf, ha]; rfl⟩
  | _ => exact ⟨_, rfl⟩

/-- Settles O21: the events are those of the operation's sequence. -/
theorem operationCosts : Obligations.OperationCosts := by
  unfold Obligations.OperationCosts
  refine ⟨rfl, fun i s haccepts hok => ?_⟩
  obtain ⟨script, hscript⟩ := scriptOf_of_accepts haccepts
  rw [← xwrites_scriptOf hscript] at hok ⊢
  obtain ⟨hcount, htotal⟩ := delays_scriptOf hscript
  refine ⟨_, exec_allOk haccepts.1 hscript hok, State.lastCode_respond .., ?_⟩
  rw [newEvents_ok hok]
  exact ⟨writeCount_okEvents _ _, hcount, htotal, length_latched_scriptOf hscript⟩

end Sys2Proof.Machine
end

section
/-! PROOFS. The registers through an operation: who writes each of them (R11 to R14, R17), `STATUS` after a
transport failure (R151, R141), the legal values of `DCTL` and `EMODE` (R12, R13, R23), and that these two cannot
be observed before `INIT` has written them (R22). -/

namespace Sys2Proof.Machine

/-! ## A sequence cut off at a failing write -/

/-- A sequence cut off in its first part does not come to the second. -/
theorem State.perform_append_failsAt {a : List Act} {s : State} {k : Nat} (hk : k < xwrites a)
    (h : s.FailsAt k) (b : List Act) : s.perform (a ++ b) = s.perform a := by
  obtain ⟨pre, v, post, -, -, hrun⟩ := runScript_failsAt hk h
  simp only [State.perform, runScript_append, hrun]

/-- A sequence cut off at a known write (R81, R156). -/
theorem State.perform_cut {pre : List Act} {s : State} (hfail : s.FailsAt (xwrites pre)) (v : Byte)
    (post : List Act) :
    s.perform (pre ++ .xwrite v :: post) = ((applyAll pre s).busWrite v).raise .transportErr := by
  rw [State.perform_append hfail.1, State.perform, runScript, xwriteThen_fail (nextAnswer_of_failsAt hfail)]

/-- The writes before the cut are fewer than those of the sequence. -/
theorem xwrites_lt_of_cut (pre : List Act) (v : Byte) (post : List Act) :
    xwrites pre < xwrites (pre ++ .xwrite v :: post) := by
  rw [xwrites_append, xwrites]
  omega

/-! ## The registers an operation other than `INIT` writes -/

/-- A part of the registers that a sequence does not change is the same after it. -/
theorem applyAll_registers {α : Type} {f : Registers → α} {script : List Act} (h : ScriptKeeps f script)
    (s : State) : f (applyAll script s).registers = f s.registers := by
  induction script generalizing s with
  | nil => rfl
  | cons a rest ih =>
    obtain ⟨ha, hrest⟩ := (scriptKeeps_cons f a rest).mp h
    have hreg : (a.apply s).registers = a.onRegisters s.registers := registers_applyAll [a] s
    rw [applyAll_cons, ih hrest, hreg, ha]

/-- An operation other than `INIT` writes `BL`, `DCTL` or `EMODE` only, each in two operations only (R11 to R13,
R17). -/
theorem scriptOf_keeps {α : Type} {f : Registers → α} {i : Instr} {s : State} {script : List Act}
    (hi : i ≠ .init) (h : scriptOf i s = some script)
    (hbl : i = .backlight ∨ i = .noBacklight → ∀ b r, f { r with bl := b } = f r)
    (hdctl : i = .display ∨ i = .noDisplay → ∀ v r, f { r with dctl := v } = f r)
    (hemode : i = .leftToRight ∨ i = .rightToLeft → ∀ v r, f { r with emode := v } = f r) :
    ScriptKeeps f script := by
  cases i <;> simp only [scriptOf, Option.some.injEq, Option.map_eq_some_iff] at h
  case init => exact absurd rfl hi
  case setCursor =>
    obtain ⟨a, -, rfl⟩ := h
    exact scriptKeeps_frame f _ _ _
  all_goals subst h
  case print | scrollLeft | scrollRight => exact scriptKeeps_frame f _ _ _
  case clear => simp [clearScript, Act.onRegisters]
  case backlight | noBacklight => simpa [backlightScript, Act.onRegisters] using hbl (by simp) _
  case display | noDisplay => simpa [displayScript, Act.onRegisters] using hdctl (by simp) _
  case leftToRight | rightToLeft => simpa [entryModeScript, Act.onRegisters] using hemode (by simp) _

/-- No sequence but that of `INIT` writes `ready` (R14). -/
theorem scriptOf_keeps_ready {i : Instr} {s : State} {script : List Act} (hi : i ≠ .init)
    (h : scriptOf i s = some script) : ScriptKeeps Registers.ready script :=
  scriptOf_keeps hi h (fun _ _ _ => rfl) (fun _ _ _ => rfl) fun _ _ _ => rfl

/-- Nor `err`; only a failing write sets it (R14, R151). -/
theorem scriptOf_keeps_err {i : Instr} {s : State} {script : List Act} (hi : i ≠ .init)
    (h : scriptOf i s = some script) : ScriptKeeps Registers.err script :=
  scriptOf_keeps hi h (fun _ _ _ => rfl) (fun _ _ _ => rfl) fun _ _ _ => rfl

/-- What the sequence of an operation does not change, and the error bit is no part of, the operation leaves as it
was. -/
theorem exec_registers {α : Type} {f : Registers → α} {i : Instr} {s t : State} (h : exec i s = .next t)
    (hkeeps : ∀ script, scriptOf i s = some script → ScriptKeeps f script)
    (herr : ∀ r : Registers, f { r with err := true } = f r) : f t.registers = f s.registers := by
  rcases exec_cases h with ⟨-, -, rfl⟩ | ⟨-, ⟨-, -, -, -, rfl⟩ | ⟨script, hscript, rfl⟩⟩
  · rfl
  · rfl
  · exact State.perform_registers (hkeeps script hscript) herr s

/-- No operation but `INIT` changes `ready` (R14). -/
theorem exec_ready {i : Instr} {s t : State} (hi : i ≠ .init) (h : exec i s = .next t) :
    t.ready = s.ready :=
  exec_registers h (fun _ hscript => scriptOf_keeps_ready hi hscript) fun _ => rfl

/-- `BL` is changed by `INIT`, `BACKLIGHT` and `NO_BACKLIGHT` only (R11). -/
theorem exec_bl {i : Instr} {s t : State} (hi : i ≠ .init) (hon : i ≠ .backlight) (hoff : i ≠ .noBacklight)
    (h : exec i s = .next t) : t.bl = s.bl :=
  exec_registers (f := Registers.bl) h
    (fun _ hscript => scriptOf_keeps hi hscript (fun hw => absurd hw (not_or.mpr ⟨hon, hoff⟩))
      (fun _ _ _ => rfl) fun _ _ _ => rfl)
    fun _ => rfl

/-- `DCTL` is changed by `INIT`, `DISPLAY` and `NO_DISPLAY` only (R12). -/
theorem exec_dctl {i : Instr} {s t : State} (hi : i ≠ .init) (hon : i ≠ .display) (hoff : i ≠ .noDisplay)
    (h : exec i s = .next t) : t.dctl = s.dctl :=
  exec_registers (f := Registers.dctl) h
    (fun _ hscript => scriptOf_keeps hi hscript (fun _ _ _ => rfl)
      (fun hw => absurd hw (not_or.mpr ⟨hon, hoff⟩)) fun _ _ _ => rfl)
    fun _ => rfl

/-- `EMODE` is changed by `INIT`, `LEFT_TO_RIGHT` and `RIGHT_TO_LEFT` only (R13). -/
theorem exec_emode {i : Instr} {s t : State} (hi : i ≠ .init) (hleft : i ≠ .leftToRight)
    (hright : i ≠ .rightToLeft) (h : exec i s = .next t) : t.emode = s.emode :=
  exec_registers (f := Registers.emode) h
    (fun _ hscript => scriptOf_keeps hi hscript (fun _ _ _ => rfl) (fun _ _ _ => rfl)
      fun hw => absurd hw (not_or.mpr ⟨hleft, hright⟩))
    fun _ => rfl

/-! ## `STATUS` -/

/-- `INIT` without its last element, which makes the LCDF ready (R140). -/
def initUnready (bl : Bool) : List Act :=
  initEntry bl ++ (initPower ++ initReset8 bl ++ initSet4 bl ++ initFunctionSet bl ++ initDisplay bl ++
    initClear bl ++ initEntryMode bl ++ initHome bl)

theorem initScript_eq_initUnready (bl : Bool) : initScript bl = initUnready bl ++ initTerminal := by
  simp only [initScript, initUnready, List.append_assoc]

/-- An `INIT` one of whose writes fails leaves the LCDF not ready (R141). -/
theorem perform_initScript_ready {s : State} {k : Nat} (hk : k < 42) (hfail : s.FailsAt k) (bl : Bool) :
    (s.perform (initScript bl)).ready = false := by
  have noWrite : s.AllOk (xwrites (initEntry bl)) := fun k hk => absurd hk (Nat.not_lt_zero k)
  rw [initScript_eq_initUnready, State.perform_append_failsAt hk hfail, initUnready]
  refine State.perform_append_registers (f := Registers.ready) noWrite ?_ fun _ => rfl
  simp [initPower, initReset8, initSet4, initFunctionSet, initDisplay, displayScript, initClear,
    clearScript, initEntryMode, entryModeScript, initHome, Act.onRegisters]

/-- `STATUS` after an `INIT` whose writes are all answered `OK` (R140). -/
theorem status_init (bl : Bool) (s : State) :
    (applyAll (initScript bl) s).ready = true ∧ (applyAll (initScript bl) s).err = false := by
  have hregisters := (registers_applyAll (initScript bl) s).trans (onRegistersAll_init bl s.registers)
  obtain ⟨hready, herr, -⟩ := Registers.mk.inj hregisters
  exact ⟨hready, herr⟩

/-- `ready` after an operation whose writes are all answered `OK` (R14, R140). -/
theorem ready_ok {i : Instr} {s : State} {script : List Act} (hscript : scriptOf i s = some script) :
    (applyAll script s).ready = if i = .init then true else s.ready := by
  split
  · next hi =>
    subst hi
    cases hscript
    exact (status_init s.blInit s).1
  · next hi => exact applyAll_registers (scriptOf_keeps_ready hi hscript) s

/-- `err` after an operation whose writes are all answered `OK` (R14, R131). -/
theorem err_ok {i : Instr} {s : State} {script : List Act} (hscript : scriptOf i s = some script) :
    (applyAll script s).err = if i = .init then false else s.err := by
  split
  · next hi =>
    subst hi
    cases hscript
    exact (status_init s.blInit s).2
  · next hi => exact applyAll_registers (scriptOf_keeps_err hi hscript) s

/-- `ready` after an operation cut off at a failing write (R141, R151). -/
theorem ready_failed {i : Instr} {s : State} {pre post : List Act} {v : Byte}
    (hscript : scriptOf i s = some (pre ++ .xwrite v :: post)) (hfail : s.FailsAt (xwrites pre)) :
    (((applyAll pre s).busWrite v).raise .transportErr).ready = if i = .init then false else s.ready := by
  rw [← State.perform_cut hfail v post]
  split
  · next hi =>
    subst hi
    have hlt := xwrites_lt_of_cut pre v post
    rw [xwrites_scriptOf hscript] at hlt
    rw [← Option.some.inj hscript]
    exact perform_initScript_ready hlt hfail _
  · next hi => exact State.perform_registers (scriptOf_keeps_ready hi hscript) (fun _ => rfl) s

/-- `err` after an operation (R14, R151). -/
theorem exec_err_iff {i : Instr} {s t : State} (h : exec i s = .next t) :
    t.err = true ↔ (∃ e ∈ s.newEvents t, e.answeredOk ≠ e) ∨ (i ≠ .init ∧ s.err = true) := by
  cases exec_ends h with
  | notReady hi | operandFault _ hi => simp [hi]
  | ok _ hscript hok =>
    rw [State.respond_err, err_ok hscript, or_iff_right (not_exists_failed hok)]
    by_cases hi : i = .init <;> simp [hi]
  | failed _ _ hfail => exact iff_of_true rfl (.inl (exists_failed hfail _))

/-- `ready` after an operation (R14, R140, R141). -/
theorem exec_ready_iff {i : Instr} {s t : State} (h : exec i s = .next t) :
    t.ready = true ↔
      (i = .init ∧ ¬ ∃ e ∈ s.newEvents t, e.answeredOk ≠ e) ∨ (i ≠ .init ∧ s.ready = true) := by
  cases exec_ends h with
  | notReady hi | operandFault _ hi => simp [hi]
  | ok _ hscript hok =>
    rw [State.respond_ready, ready_ok hscript, and_iff_left (not_exists_failed hok)]
    by_cases hi : i = .init <;> simp [hi]
  | @failed pre post v _ hscript hfail =>
    rw [ready_failed hscript hfail, or_iff_right fun hf => hf.2 (exists_failed hfail v)]
    by_cases hi : i = .init <;> simp [hi]

/-- Settles O25: `err` and `ready` by the way the operation ends, and the bits of the register by its layout. -/
theorem statusAfterOperation : Obligations.StatusAfterOperation := by
  unfold Obligations.StatusAfterOperation
  intro i s t h
  refine ⟨exec_err_iff h, exec_ready_iff h, ?_⟩
  rw [State.status]
  cases t.ready <;> cases t.err <;> exact ⟨rfl, rfl⟩

/-- Settles O23: no element of the sequence of another operation writes the register. -/
theorem registerWriters : Obligations.RegisterWriters := by
  unfold Obligations.RegisterWriters
  intro i s t h
  exact ⟨fun hi => ⟨exec_ready hi h, fun herr => (exec_err_iff h).mpr (.inr ⟨hi, herr⟩)⟩,
    fun hi hon hoff => exec_bl hi hon hoff h, fun hi hon hoff => exec_dctl hi hon hoff h,
    fun hi hleft hright => exec_emode hi hleft hright h⟩

/-! ## A failing write -/

theorem Trace.writeCount_append (a b : List Event) :
    Trace.writeCount (a ++ b) = Trace.writeCount a + Trace.writeCount b := by
  simp [Trace.writeCount]

/-- Settles O26: the sequence is cut off at the write after `k` successful ones. -/
theorem transportFaultEndsOperation : Obligations.TransportFaultEndsOperation := by
  unfold Obligations.TransportFaultEndsOperation
  refine ⟨rfl, fun i s k haccepts hk hfail => ?_⟩
  obtain ⟨script, hscript⟩ := scriptOf_of_accepts haccepts
  rw [← xwrites_scriptOf hscript] at hk
  obtain ⟨pre, v, post, rfl, rfl, ht⟩ := State.perform_failsAt hk hfail
  refine ⟨_, (exec_of_scriptOf haccepts.1 hscript).trans (congrArg _ ht), State.lastCode_respond .., rfl,
    ready_failed hscript hfail, ?_⟩
  rw [newEvents_failed hfail, Trace.writeCount_append, writeCount_okEvents]
  exact ⟨rfl, v, List.getLast?_concat ..⟩

/-- The sequence of `INIT` up to step 5, where `DCTL` is written first (R136). -/
def initBeforeDctl (bl : Bool) : List Act :=
  initEntry bl ++ initPower ++ initReset8 bl ++ initSet4 bl ++ initFunctionSet bl

/-- The sequence of `INIT` up to step 7, where `EMODE` is written first (R138). -/
def initBeforeEmode (bl : Bool) : List Act :=
  initEntry bl ++ initPower ++ initReset8 bl ++ initSet4 bl ++ initFunctionSet bl ++ initDisplay bl ++
    initClear bl

/-- An `INIT` that fails before step 5 leaves `DCTL` as it was (R141). -/
theorem perform_initScript_dctl_early {s : State} {k : Nat} (hk : k < 18) (hfail : s.FailsAt k) (bl : Bool) :
    (s.perform (initScript bl)).dctl = s.dctl := by
  have hsplit : initScript bl = initBeforeDctl bl ++
      (initDisplay bl ++ initClear bl ++ initEntryMode bl ++ initHome bl ++ initTerminal) := by
    simp only [initScript, initBeforeDctl, List.append_assoc]
  rw [hsplit, State.perform_append_failsAt hk hfail]
  refine State.perform_registers (f := Registers.dctl) ?_ (fun _ => rfl) s
  simp [initBeforeDctl, initEntry, initPower, initReset8, initSet4, initFunctionSet, Act.onRegisters]

/-- An `INIT` that fails before step 7 leaves `EMODE` as it was (R141). -/
theorem perform_initScript_emode_early {s : State} {k : Nat} (hk : k < 30) (hfail : s.FailsAt k) (bl : Bool) :
    (s.perform (initScript bl)).emode = s.emode := by
  have hsplit : initScript bl = initBeforeEmode bl ++ (initEntryMode bl ++ initHome bl ++ initTerminal) := by
    simp only [initScript, initBeforeEmode, List.append_assoc]
  rw [hsplit, State.perform_append_failsAt hk hfail]
  refine State.perform_registers (f := Registers.emode) ?_ (fun _ => rfl) s
  simp [initBeforeEmode, initEntry, initPower, initReset8, initSet4, initFunctionSet, initDisplay,
    displayScript, initClear, clearScript, Act.onRegisters]

/-- Settles O29: a register that `INIT` had not come to is as it was, one that it had written keeps its baseline. -/
theorem failedInit : Obligations.FailedInit := by
  unfold Obligations.FailedInit
  intro s k hk hfail
  obtain ⟨pre, v, post, -, -, ht⟩ := State.perform_failsAt (script := initScript s.blInit) hk hfail
  refine ⟨_, rfl, ?_, perform_initScript_ready hk hfail _, ?_, perform_initScript_bl _ s, ?_, ?_⟩
  · rw [ht]
    exact State.lastCode_respond ..
  · rw [ht]
    rfl
  · split
    · next hearly => exact perform_initScript_dctl_early hearly hfail _
    · next hlate => exact perform_initScript_dctl (hfail.1.mono (Nat.le_of_not_lt hlate)) _
  · split
    · next hearly => exact perform_initScript_emode_early hearly hfail _
    · next hlate => exact perform_initScript_emode (hfail.1.mono (Nat.le_of_not_lt hlate)) _

/-! ## What the display and direction operations write -/

/-- The display operations leave in `DCTL` what they write before their frame, whatever the transport answers
(R24). -/
theorem perform_displayScript_dctl (d : Byte) (bl : Bool) (s : State) :
    (s.perform (displayScript d bl)).dctl = dctlWrite d :=
  State.perform_append_registers (f := Registers.dctl) (a := [.setDctl d])
    (fun k hk => absurd hk (Nat.not_lt_zero k)) (scriptKeeps_frame _ _ _ _) fun _ => rfl

/-- So do the direction operations in `EMODE`. -/
theorem perform_entryModeScript_emode (e : Byte) (bl : Bool) (s : State) :
    (s.perform (entryModeScript e bl)).emode = emodeWrite e :=
  State.perform_append_registers (f := Registers.emode) (a := [.setEmode e])
    (fun k hk => absurd hk (Nat.not_lt_zero k)) (scriptKeeps_frame _ _ _ _) fun _ => rfl

/-- `DCTL` after an operation other than `INIT` (R12, R17). -/
theorem exec_dctl_cases {i : Instr} {s t : State} (hi : i ≠ .init) (h : exec i s = .next t) :
    t.dctl = s.dctl ∨ t.dctl = dctlWrite (dctlDisplayOn s.dctl) ∨
      t.dctl = dctlWrite (dctlDisplayOff s.dctl) := by
  rcases exec_cases h with ⟨-, -, rfl⟩ | ⟨-, ⟨-, -, -, -, rfl⟩ | ⟨script, hscript, rfl⟩⟩
  · exact .inl rfl
  · exact .inl rfl
  · cases i with
    | display =>
      cases hscript
      exact .inr (.inl (perform_displayScript_dctl ..))
    | noDisplay =>
      cases hscript
      exact .inr (.inr (perform_displayScript_dctl ..))
    | _ => exact .inl (exec_dctl hi nofun nofun h)

/-- `EMODE` after an operation other than `INIT` (R13, R17). -/
theorem exec_emode_cases {i : Instr} {s t : State} (hi : i ≠ .init) (h : exec i s = .next t) :
    t.emode = s.emode ∨ t.emode = emodeWrite (emodeLeft s.emode) ∨
      t.emode = emodeWrite (emodeRight s.emode) := by
  rcases exec_cases h with ⟨-, -, rfl⟩ | ⟨-, ⟨-, -, -, -, rfl⟩ | ⟨script, hscript, rfl⟩⟩
  · exact .inl rfl
  · exact .inl rfl
  · cases i with
    | leftToRight =>
      cases hscript
      exact .inr (.inl (perform_entryModeScript_emode ..))
    | rightToLeft =>
      cases hscript
      exact .inr (.inr (perform_entryModeScript_emode ..))
    | _ => exact .inl (exec_emode hi nofun nofun h)

/-- The read-modify-writes of `DCTL` keep the cursor and blink bits (R111, R112). -/
theorem dctl_flags_kept (d : Byte) :
    ((dctlWrite (dctlDisplayOn d)).getLsbD 1 = d.getLsbD 1 ∧
      (dctlWrite (dctlDisplayOn d)).getLsbD 0 = d.getLsbD 0) ∧
    (dctlWrite (dctlDisplayOff d)).getLsbD 1 = d.getLsbD 1 ∧
      (dctlWrite (dctlDisplayOff d)).getLsbD 0 = d.getLsbD 0 := by
  simp [dctlWrite, dctlDisplayOn, dctlDisplayOff, Config.displayOn]

/-- The read-modify-writes of `EMODE` keep the shift bit (R113, R114). -/
theorem emode_flag_kept (e : Byte) :
    (emodeWrite (emodeLeft e)).getLsbD 0 = e.getLsbD 0 ∧
      (emodeWrite (emodeRight e)).getLsbD 0 = e.getLsbD 0 := by
  simp [emodeWrite, emodeLeft, emodeRight, Config.entryLeft]

/-- Settles O24: the register is as it was or one of the two read-modify-writes of it. -/
theorem otherFlagsUntouched : Obligations.OtherFlagsUntouched := by
  unfold Obligations.OtherFlagsUntouched
  intro i s t h
  constructor
  · intro hdisplay
    have hi : i ≠ .init := by rintro rfl; simp at hdisplay
    obtain ⟨hon, hoff⟩ := dctl_flags_kept s.dctl
    rw [State.flagC, State.flagB]
    rcases exec_dctl_cases hi h with hd | hd | hd <;> rw [hd]
    · exact ⟨rfl, rfl⟩
    · exact hon
    · exact hoff
  · intro hdirection
    have hi : i ≠ .init := by rintro rfl; simp at hdirection
    obtain ⟨hleft, hright⟩ := emode_flag_kept s.emode
    rw [State.flagS]
    rcases exec_emode_cases hi h with he | he | he <;> rw [he]
    · rfl
    · exact hleft
    · exact hright

/-! ## The legal values -/

/-- The hardwired bits of both registers are 0 (R12, R13). -/
def State.Hardwired (s : State) : Prop := s.dctl &&& 0xF8 = 0 ∧ s.emode &&& 0xFC = 0

/-- Both registers hold one of their legal values (R23). -/
def State.FlagsLegal (s : State) : Prop :=
  (s.dctl = 0x04 ∨ s.dctl = 0x00) ∧ (s.emode = 0x02 ∨ s.emode = 0x00)

theorem dctlWrite_hardwired (v : Byte) : dctlWrite v &&& 0xF8 = 0 := by
  rw [dctlWrite, BitVec.and_assoc]
  exact BitVec.and_zero

theorem emodeWrite_hardwired (v : Byte) : emodeWrite v &&& 0xFC = 0 := by
  rw [emodeWrite, BitVec.and_assoc]
  exact BitVec.and_zero

/-- A step keeps the hardwired bits at 0: every write of the two registers clears them. -/
theorem step_hardwired {s t : State} (hs : s.Hardwired) (h : step s = .next t) : t.Hardwired := by
  refine step_keeps (P := State.Hardwired) h hs (fun _ _ _ a _ u hu => ?_) (fun _ hu => hu) fun _ _ hu => hu
  cases a with
  | setDctl v => exact ⟨dctlWrite_hardwired v, hu.2⟩
  | setEmode v => exact ⟨hu.1, emodeWrite_hardwired v⟩
  | _ => exact hu

/-- An `INIT` that leaves the LCDF ready leaves both registers at their baselines (R136, R138, R140). -/
theorem perform_initScript_flags {bl : Bool} {s : State} (hready : (s.perform (initScript bl)).ready = true) :
    (s.perform (initScript bl)).dctl = Config.displayOn ∧
      (s.perform (initScript bl)).emode = Config.entryLeft := by
  rcases s.allOk_or_failsAt 42 with hok | ⟨k, hk, hfail⟩
  · exact ⟨perform_initScript_dctl (hok.mono (by decide)) bl, perform_initScript_emode (hok.mono (by decide)) bl⟩
  · rw [perform_initScript_ready hk hfail] at hready
    cases hready

/-- An operation that leaves the LCDF ready leaves the legal values: `INIT` the baselines, every other operation the
values there were or a read-modify-write of them. -/
theorem exec_flagsLegal {i : Instr} {s t : State} (hs : s.ready = true → s.FlagsLegal)
    (h : exec i s = .next t) (hready : t.ready = true) : t.FlagsLegal := by
  by_cases hi : i = .init
  · subst hi
    cases h
    obtain ⟨hdctl, hemode⟩ := perform_initScript_flags hready
    exact ⟨.inl hdctl, .inl hemode⟩
  · rw [exec_ready hi h] at hready
    obtain ⟨hdctl, hemode⟩ := hs hready
    refine ⟨?_, ?_⟩
    · rcases exec_dctl_cases hi h with hd | hd | hd <;> rcases hdctl with hv | hv <;> rw [hd, hv] <;> decide
    · rcases exec_emode_cases hi h with he | he | he <;> rcases hemode with hv | hv <;> rw [he, hv] <;> decide

/-- Settles O30: the hardwired bits by the writes themselves, the legal values by the operation run. -/
theorem stepKeepsRegistersLegal : Obligations.StepKeepsRegistersLegal := by
  unfold Obligations.StepKeepsRegistersLegal
  intro s t ⟨hdctl, hemode, hs⟩ h
  obtain ⟨hdctl', hemode'⟩ := step_hardwired ⟨hdctl, hemode⟩ h
  refine ⟨hdctl', hemode', fun hready => ?_⟩
  rcases step_cases h with ⟨-, rfl⟩ | ⟨_, _, -, -, rfl⟩ | ⟨_, i, -, -, hexec⟩
  · exact hs hready
  · exact hs hready
  · exact exec_flagsLegal hs hexec hready

/-! ## `DCTL` and `EMODE` before `INIT` has written them -/

/-- Performing a sequence on a machine with other contents of `DCTL` and `EMODE` differs in these only: they are
read by no element of a sequence. -/
theorem perform_withFlags (script : List Act) (s : State) (dctl emode : Byte) :
    ∃ d e, (s.withFlags dctl emode).perform script = (s.perform script).withFlags d e := by
  induction script generalizing s dctl emode with
  | nil => exact ⟨dctl, emode, rfl⟩
  | cons a rest ih =>
    cases a with
    | xwrite v =>
      rcases xwriteThen_cases v s (runScript rest) with ⟨hans, hrun⟩ | ⟨hans, hrun⟩
      · have hrun' := xwriteThen_ok (s := s.withFlags dctl emode) hans v (runScript rest)
        have hcomm : (s.withFlags dctl emode).busWrite v = (s.busWrite v).withFlags dctl emode := rfl
        simpa only [State.perform, runScript, hrun, hrun', hcomm] using ih (s.busWrite v) dctl emode
      · have hrun' := xwriteThen_fail (s := s.withFlags dctl emode) hans v (runScript rest)
        exact ⟨dctl, emode, by simp only [State.perform, runScript, hrun, hrun']; rfl⟩
    | delay us => exact ih (s.logDelay us) dctl emode
    | setReady b => exact ih (s.setReady b) dctl emode
    | setErr b => exact ih (s.setErr b) dctl emode
    | setBl b => exact ih (s.setBl b) dctl emode
    | setDctl v => exact ih (s.setDctl v) (dctlWrite v) emode
    | setEmode v => exact ih (s.setEmode v) dctl (emodeWrite v)
    | switch4 => exact ih s.switch4 dctl emode

/-- A machine that differs in these two only is put right by them. -/
theorem eq_of_withFlags {t u : State} {d e : Byte} (h : u = t.withFlags d e) :
    u.withFlags t.dctl t.emode = t ∧ (u.dctl = t.dctl → u.emode = t.emode → u = t) := by
  subst h
  refine ⟨rfl, fun hd he => ?_⟩
  change d = t.dctl at hd
  change e = t.emode at he
  rw [hd, he]
  rfl

/-- The state after `INIT` is that after its sequence. -/
theorem exec_init {s t : State} (h : exec .init s = .next t) : t = s.perform (initScript s.blInit) :=
  (Host.Outcome.next.inj h).symm

/-- `INIT` on a machine with other contents of the two registers: the same but for them, and not even for them if
it completed. -/
theorem exec_init_withFlags {s t u : State} {dctl emode : Byte} (ht : exec .init s = .next t)
    (hu : exec .init (s.withFlags dctl emode) = .next u) :
    u.withFlags t.dctl t.emode = t ∧ (t.ready = true → u = t) := by
  obtain ⟨d, e, hperform⟩ := perform_withFlags (initScript s.blInit) s dctl emode
  have ht := exec_init ht
  have hu : u = (s.withFlags dctl emode).perform (initScript s.blInit) := exec_init hu
  have htu : u = t.withFlags d e := by rw [hu, hperform, ht]
  obtain ⟨hflags, heq⟩ := eq_of_withFlags htu
  refine ⟨hflags, fun hready => ?_⟩
  have hready' : u.ready = true := by rw [htu]; exact hready
  rw [ht] at hready
  rw [hu] at hready'
  obtain ⟨hd, he⟩ := perform_initScript_flags hready
  obtain ⟨hd', he'⟩ := perform_initScript_flags hready'
  rw [← ht] at hd he
  rw [← hu] at hd' he'
  exact heq (hd'.trans hd.symm) (he'.trans he.symm)

/-- Settles O40: another operation is turned away; `INIT` reads neither register and, if it completes, has written
both. -/
theorem unwrittenFlagsUnobservable : Obligations.UnwrittenFlagsUnobservable := by
  unfold Obligations.UnwrittenFlagsUnobservable
  intro i s t u dctl emode hready ht hu
  by_cases hi : i = .init
  · subst hi
    exact exec_init_withFlags ht hu
  · rw [exec_eq, outcome_of_not_ready hi hready, Host.Outcome.next.injEq] at ht
    rw [exec_eq, outcome_of_not_ready (s := s.withFlags dctl emode) hi hready, Host.Outcome.next.injEq] at hu
    subst ht hu
    exact ⟨rfl, fun hready' => absurd hready' (by simp [hready])⟩

end Sys2Proof.Machine
end

section
/-! PROOFS. The bytes on the bus (R11, R31, R57) and where they leave the enable line (R36, R91, R157, R188); and
the state after reset, which meets every invariant (R22, R180, R181). -/

namespace Sys2Proof.Machine

/-! ## Every byte written is packed with `RW = 0` and the backlight bit -/

/-- If the element is a write, its byte is packed with the backlight bit `bl` (R56, R57). -/
def Act.Packed (bl : Bool) (a : Act) : Prop := ∀ v, a = .xwrite v → ∃ n rs en, v = pack n rs en bl

/-- So it is for every element of the sequence. -/
def Packed (bl : Bool) (script : List Act) : Prop := ∀ a ∈ script, a.Packed bl

@[simp] theorem packed_nil (bl : Bool) : Packed bl [] := nofun

@[simp] theorem packed_cons (bl : Bool) (a : Act) (script : List Act) :
    Packed bl (a :: script) ↔ a.Packed bl ∧ Packed bl script :=
  List.forall_mem_cons

@[simp] theorem packed_append (bl : Bool) (a b : List Act) :
    Packed bl (a ++ b) ↔ Packed bl a ∧ Packed bl b :=
  List.forall_mem_append

@[simp] theorem Act.packed_delay (bl : Bool) (us : Nat) : (Act.delay us).Packed bl := nofun

@[simp] theorem Act.packed_setReady (bl b : Bool) : (Act.setReady b).Packed bl := nofun

@[simp] theorem Act.packed_setErr (bl b : Bool) : (Act.setErr b).Packed bl := nofun

@[simp] theorem Act.packed_setBl (bl b : Bool) : (Act.setBl b).Packed bl := nofun

@[simp] theorem Act.packed_setDctl (bl : Bool) (v : Byte) : (Act.setDctl v).Packed bl := nofun

@[simp] theorem Act.packed_setEmode (bl : Bool) (v : Byte) : (Act.setEmode v).Packed bl := nofun

@[simp] theorem Act.packed_switch4 (bl : Bool) : Act.switch4.Packed bl := nofun

@[simp] theorem Act.packed_xwrite (n : Nibble) (rs en bl : Bool) : (Act.xwrite (pack n rs en bl)).Packed bl := by
  rintro _ ⟨⟩
  exact ⟨n, rs, en, rfl⟩

@[simp] theorem packed_nibble (n : Nibble) (rs bl : Bool) : Packed bl (nibble n rs bl) := by
  simp [nibble_eq, pack_rising]

@[simp] theorem packed_frame (v : Byte) (rs bl : Bool) : Packed bl (frame v rs bl) := by
  simp [frame]

/-- `BL` as an operation whose sequence is performed leaves it (R11). -/
def blAfter : Instr → State → Bool
  | .init, s => s.blInit
  | .backlight, _ => true
  | .noBacklight, _ => false
  | _, s => s.bl

/-- Every byte of an operation's sequence is packed with `BL` as the operation leaves it. -/
theorem scriptOf_packed {i : Instr} {s : State} {script : List Act} (h : scriptOf i s = some script) :
    Packed (blAfter i s) script := by
  cases i <;> simp only [scriptOf, Option.some.injEq, Option.map_eq_some_iff] at h
  case setCursor =>
    obtain ⟨a, -, rfl⟩ := h
    exact packed_frame _ _ _
  all_goals subst h
  case init =>
    simp [blAfter, initScript, initEntry, initPower, initReset8, initSet4, initFunctionSet, initDisplay,
      displayScript, initClear, clearScript, initEntryMode, entryModeScript, initHome, initTerminal]
  case print | scrollLeft | scrollRight => exact packed_frame _ _ _
  case clear => simp [blAfter, clearScript]
  case backlight | noBacklight => simp [blAfter, backlightScript]
  case display | noDisplay => simp [blAfter, displayScript]
  case leftToRight | rightToLeft => simp [blAfter, entryModeScript]

/-- The sequence leaves `BL` so, whatever the transport answers (R24). -/
theorem perform_bl {i : Instr} {s : State} {script : List Act} (h : scriptOf i s = some script) :
    (s.perform script).bl = blAfter i s := by
  have hbacklight (b : Bool) : (s.perform (backlightScript b)).bl = b :=
    State.perform_append_registers (f := Registers.bl) (a := [.setBl b])
      (fun k hk => absurd hk (Nat.not_lt_zero k)) (by simp [Act.onRegisters]) fun _ => rfl
  have hother (hi : i ≠ .init) (hon : i ≠ .backlight) (hoff : i ≠ .noBacklight) :
      (s.perform script).bl = s.bl :=
    State.perform_registers (f := Registers.bl) (scriptOf_keeps hi h
      (fun hw => absurd hw (not_or.mpr ⟨hon, hoff⟩)) (fun _ _ _ => rfl) fun _ _ _ => rfl) (fun _ => rfl) s
  cases i with
  | init =>
    cases h
    exact perform_initScript_bl _ s
  | backlight | noBacklight =>
    cases h
    exact hbacklight _
  | _ => exact hother nofun nofun nofun

/-- A write among the events of a sequence is one of its elements. -/
theorem xwrite_mem_of_okEvents {script : List Act} {dev d : BitVec 7} {p v : Byte} {r : Answer}
    (h : .write d p v r ∈ okEvents dev script) : .xwrite v ∈ script := by
  obtain ⟨a, hmem, ha⟩ := List.mem_filterMap.mp h
  cases a <;> cases ha
  exact hmem

/-- A write among the events of an operation, whatever its answer, is one of the operation's sequence. -/
theorem xwrite_mem_of_newEvents {i : Instr} {s t : State} (h : exec i s = .next t) {d : BitVec 7}
    {p v : Byte} {r : Answer} (hmem : .write d p v r ∈ s.newEvents t) :
    ∃ script, scriptOf i s = some script ∧ t = s.perform script ∧ .xwrite v ∈ script := by
  cases exec_ends h with
  | notReady | operandFault => simp at hmem
  | ok _ hscript hok =>
    rw [newEvents_ok hok] at hmem
    exact ⟨_, hscript, (State.perform_allOk hok).symm, xwrite_mem_of_okEvents hmem⟩
  | failed _ hscript hfail =>
    refine ⟨_, hscript, (State.perform_cut hfail _ _).symm, ?_⟩
    rw [newEvents_failed hfail, List.mem_append, List.mem_singleton] at hmem
    rcases hmem with hmem | hmem
    · exact List.mem_append_left _ (xwrite_mem_of_okEvents hmem)
    · cases hmem
      simp

/-- A byte an operation writes is packed with `BL` as the operation leaves it. -/
theorem exec_packed {i : Instr} {s t : State} (h : exec i s = .next t) {d : BitVec 7} {p v : Byte}
    {r : Answer} (hmem : .write d p v r ∈ s.newEvents t) : ∃ n rs en, v = pack n rs en t.bl := by
  obtain ⟨script, hscript, rfl, hv⟩ := xwrite_mem_of_newEvents h hmem
  rw [perform_bl hscript]
  exact scriptOf_packed hscript _ hv _ rfl

/-- Settles O43: bit 3 of a packed byte is the backlight bit. -/
theorem backlightInEveryWrite : Obligations.BacklightInEveryWrite := by
  unfold Obligations.BacklightInEveryWrite
  intro i s t h d p v r hmem
  obtain ⟨n, rs, en, rfl⟩ := exec_packed h hmem
  exact pack_bl n rs en t.bl

/-- The bytes a step writes have `RW = 0` (R57). -/
theorem step_rw {s t : State} (h : step s = .next t) {d : BitVec 7} {p v : Byte} {r : Answer}
    (hmem : .write d p v r ∈ s.newEvents t) : v.getLsbD 1 = false := by
  rcases step_cases h with ⟨-, rfl⟩ | ⟨_, _, -, -, rfl⟩ | ⟨_, i, -, -, hexec⟩
  · simp [State.newEvents] at hmem
  · simp at hmem
  · obtain ⟨n, rs, en, rfl⟩ := exec_packed hexec hmem
    exact pack_rw n rs en t.bl

/-- Settles O42: the layout by evaluation at the 128 operands, bit 1 by the layout. -/
theorem packLayout : Obligations.PackLayout := by
  unfold Obligations.PackLayout
  exact ⟨by decide, fun s t h _ _ _ _ hmem => step_rw h hmem⟩

/-- The trace after a step is the one before it and the step's own events (R42). -/
theorem step_trace {s t : State} (h : step s = .next t) : t.trace = s.trace ++ s.newEvents t := by
  rcases step_cases h with ⟨-, rfl⟩ | ⟨_, _, -, -, rfl⟩ | ⟨_, i, -, -, hexec⟩
  · simp [State.newEvents]
  · simp
  · exact exec_trace hexec

/-- Settles O31: the events of a step are addressed as every store is, and have `RW = 0`. -/
theorem stepKeepsBusDisciplined : Obligations.StepKeepsBusDisciplined := by
  unfold Obligations.StepKeepsBusDisciplined
  intro s t hs h e he
  have hdev : t.devAddr = s.devAddr :=
    step_keeps (P := fun u => u.devAddr = s.devAddr) h rfl (fun _ _ _ a _ u hu => by cases a <;> exact hu)
      (fun _ hu => hu) fun _ _ hu => hu
  rw [step_trace h, List.mem_append] at he
  rw [hdev]
  rcases he with hold | hnew
  · exact hs e hold
  · cases e with
    | delay us => rfl
    | write d p v r =>
      obtain ⟨hd, hp⟩ := step_write h d p v r hnew
      simp only [Event.disciplined, hd, hp, step_rw h hnew, decide_true, Bool.not_false, Bool.and_self]

/-! ## Where an operation leaves the enable line -/

/-- The last value of every operation's sequence has its enable bit 0 (R91, R109). -/
theorem lastValue_scriptOf {i : Instr} {s : State} {script : List Act} (h : scriptOf i s = some script) :
    ∃ v, lastValue s.devAddr script = some v ∧ v.getLsbD 2 = false := by
  suffices hpack : ∃ n rs bl, lastValue s.devAddr script = some (pack n rs false bl) by
    obtain ⟨n, rs, bl, hlast⟩ := hpack
    exact ⟨_, hlast, pack_en n rs false bl⟩
  cases i <;> simp only [scriptOf, Option.some.injEq, Option.map_eq_some_iff] at h
  case setCursor =>
    obtain ⟨a, -, rfl⟩ := h
    exact ⟨_, _, _, lastValue_frame ..⟩
  all_goals subst h
  case init => exact ⟨_, _, _, lastValue_init ..⟩
  case clear => exact ⟨_, _, _, (lastValue_append_delay ..).trans (lastValue_frame ..)⟩
  case backlight | noBacklight => exact ⟨_, _, _, rfl⟩
  all_goals exact ⟨_, _, _, lastValue_frame ..⟩

theorem Trace.writes_append (a b : List Event) :
    Trace.writes (a ++ b) = Trace.writes a ++ Trace.writes b := by
  induction a with
  | nil => rfl
  | cons e a ih => cases e <;> simp [Trace.writes, ih]

/-- The writes of a sequence without a failure, by their values. -/
theorem writes_okEvents (dev : BitVec 7) (script : List Act) :
    Trace.writes (okEvents dev script) =
      (Trace.okValues (okEvents dev script)).map fun v => .write dev 0x00 v .ok := by
  induction script with
  | nil => rfl
  | cons a rest ih =>
    cases a with
    | xwrite v => exact congrArg (Event.write dev 0x00 v .ok :: ·) ih
    | _ => exact ih

/-- The last write of a sequence without a failure is of its last value. -/
theorem getLast?_writes_okEvents (dev : BitVec 7) (script : List Act) :
    (Trace.writes (okEvents dev script)).getLast? =
      (lastValue dev script).map fun v => .write dev 0x00 v .ok := by
  rw [writes_okEvents, List.getLast?_map]
  rfl

/-- The output register after an operation whose writes are all answered `OK` (R36). -/
theorem xout_applyAll {script : List Act} {s : State} {v : Byte} (hok : s.AllOk (xwrites script))
    (hlast : lastValue s.devAddr script = some v) : (applyAll script s).xout = v := by
  have hxout := (applyAll_latches hok).2
  change (Trace.okValues (script.filterMap _)).getLast? = some v at hlast
  rw [List.getLast?_cons, hlast] at hxout
  exact Option.some.inj hxout

/-- Settles O32: an operation that ends `OK` ends with a write with its enable bit 0, one cut off sets `err`, and
one turned away writes nothing. -/
theorem stepKeepsLinesIdle : Obligations.StepKeepsLinesIdle := by
  unfold Obligations.StepKeepsLinesIdle
  intro s t hs h
  rcases step_cases h with ⟨-, rfl⟩ | ⟨_, _, -, -, rfl⟩ | ⟨_, i, -, -, hexec⟩
  · exact hs
  · exact hs
  · cases exec_ends hexec with
    | notReady | operandFault => exact hs
    | failed => exact nofun
    | ok _ hscript hok =>
      intro _ e he
      obtain ⟨v, hlast, hlow⟩ := lastValue_scriptOf hscript
      rw [State.respond_trace, (applyAll_allOk hok).1, Trace.writes_append, List.getLast?_append, ← okEvents,
        getLast?_writes_okEvents, hlast] at he
      cases he
      exact ⟨v, rfl, hlow⟩

/-- Settles O35: an operation that ends `OK` leaves its last value, one cut off is not trusted, and one turned away
leaves the line. -/
theorem stepKeepsTrustedLineLow : Obligations.StepKeepsTrustedLineLow := by
  unfold Obligations.StepKeepsTrustedLineLow
  intro s t hs h
  rcases step_cases h with ⟨-, rfl⟩ | ⟨_, _, -, -, rfl⟩ | ⟨_, i, -, -, hexec⟩
  · exact hs
  · exact hs
  · cases exec_ends hexec with
    | notReady | operandFault => exact hs
    | failed => simp [State.TrustedLineLow, State.trustworthy, State.raise_transportErr]
    | ok _ hscript hok =>
      intro _
      obtain ⟨v, hlast, hlow⟩ := lastValue_scriptOf hscript
      rwa [State.respond_xout, xout_applyAll hok hlast]

/-- Settles O46: the last value written is the one the output register holds, and every sequence writes. -/
theorem xoutIsLastWrite : Obligations.XoutIsLastWrite := by
  unfold Obligations.XoutIsLastWrite
  intro i s t h
  cases exec_ends h with
  | notReady | operandFault => simp [Trace.writes]
  | @ok script _ hscript hok =>
    obtain ⟨v, hlast, -⟩ := lastValue_scriptOf hscript
    rw [newEvents_ok hok]
    refine ⟨fun d p v' hwrite => ?_, fun hnone => ?_⟩
    · rw [getLast?_writes_okEvents, hlast] at hwrite
      cases hwrite
      exact xout_applyAll hok hlast
    · have hwrite := getLast?_writes_okEvents s.devAddr script
      rw [hnone, hlast] at hwrite
      cases hwrite
  | failed _ _ hfail =>
    rw [newEvents_failed hfail, Trace.writes_append]
    refine ⟨fun d p v' hwrite => ?_, fun hnone => ?_⟩
    · rw [Trace.writes, Trace.writes, List.getLast?_concat] at hwrite
      cases hwrite
    · simp [Trace.writes] at hnone

/-! ## Reset -/

/-- Settles O37: at reset nothing is traced, nothing answered and the LCDF is not ready. -/
theorem resetMeetsInvariants : Obligations.ResetMeetsInvariants := by
  unfold Obligations.ResetMeetsInvariants
  refine ⟨⟨by decide, by decide, nofun⟩, nofun, fun _ _ he => ?_, rfl, ⟨?_, ?_⟩, nofun, nofun⟩
  · cases he
  · exact Memory.wf_single Config.xoutAtReset (by decide)
  · exact Option.some_ne_none _

/-- Settles O38: field by field. -/
theorem resetValues : Obligations.ResetValues := by
  unfold Obligations.ResetValues
  exact ⟨rfl, rfl, rfl, rfl, rfl, rfl, rfl, rfl⟩

/-- Settles O39: field by field. -/
theorem resetInput : Obligations.ResetInput := by
  unfold Obligations.ResetInput
  exact fun s => ⟨rfl, rfl, rfl, rfl, rfl, rfl, rfl, rfl, rfl, rfl⟩

end Sys2Proof.Machine
end

section
/-! PROOFS. What the controller behind the expander latches (R37): the falling edges of the outputs, and, while
`STATUS.ready = 1` and `STATUS.err = 0`, whole bytes and exactly those the operation stands for (R101, R109,
R188). -/

namespace Sys2Proof.Machine

/-! ## The falling edges of the outputs -/

/-- What the controller latches in a sequence cut off at a failing write, which leaves the outputs at any value
(R47, R94). -/
theorem latches_failed {s : State} {pre : List Act} (hfail : s.FailsAt (xwrites pre)) (v : Byte) :
    (((applyAll pre s).busWrite v).raise .transportErr).latches = s.latches ++
      latchEvents (s.xout :: Trace.okValues (okEvents s.devAddr pre) ++
        [(((applyAll pre s).busWrite v).raise .transportErr).xout]) := by
  obtain ⟨hlatches, hxout⟩ := applyAll_latches hfail.1
  rw [okEvents, latchEvents_append hxout.symm, ← List.append_assoc, ← hlatches]
  simp [State.raise_transportErr]

/-- Settles O49: the values of the successful writes are those of the sequence, up to where it was cut off. -/
theorem latchesFollowOutputs : Obligations.LatchesFollowOutputs := by
  unfold Obligations.LatchesFollowOutputs
  intro i s t h
  cases exec_ends h with
  | notReady | operandFault => simp [latchEvents]
  | ok _ _ hok =>
    refine ⟨fun _ => ?_, fun hsome => absurd hsome (not_exists_failed hok)⟩
    rw [newEvents_ok hok]
    exact (applyAll_latches hok).1
  | @failed pre _ v _ _ hfail =>
    refine ⟨fun hnone => ?_, fun _ => ?_⟩
    · obtain ⟨e, hmem, hne⟩ := exists_failed hfail v
      exact absurd (hnone e hmem) hne
    · rw [newEvents_failed hfail, Trace.okValues_append, Trace.okValues_write_fail, Trace.okValues_nil,
        List.append_nil]
      exact latches_failed hfail v

/-! ## Whole bytes -/

/-- A controller that latched whole bytes waits for a high nibble (R37). -/
theorem State.awaitsLow_eq_false {s : State} (h : s.sinceSwitch.length = 2 * s.received.length) :
    s.awaitsLow = false := by
  simp [State.awaitsLow, Trace.awaitsLow, h]

/-- An operation other than `INIT` has two latch events for every byte it delivers (R101, R115). -/
theorem latchCount_eq {i : Instr} {s : State} {script : List Act} (hi : i ≠ .init)
    (h : scriptOf i s = some script) : latchCount i = 2 * (delivered i s).length := by
  cases i with
  | init => exact absurd rfl hi
  | setCursor col row =>
    obtain ⟨a, ha, -⟩ := Option.map_eq_some_iff.mp h
    obtain ⟨offset, hoffset, -⟩ := cursorAddress_eq_some ha
    simp only [delivered, hoffset]
    rfl
  | _ => rfl

/-- What the controller makes of an operation other than `INIT` that ends `OK`, from a low enable line and in phase
(R37, R101, R109). -/
theorem delivers_ok {i : Instr} {s : State} {script : List Act} (hi : i ≠ .init)
    (hscript : scriptOf i s = some script) (hok : s.AllOk (xwrites script)) (htrust : s.trustworthy = true)
    (hlow : s.TrustedLineLow) (hphase : s.TrustedInPhase) :
    let t := (applyAll script s).respond .ok
    let sent := Trace.latched (okEvents s.devAddr script)
    t.latches = s.latches ++ sent ∧ t.received = s.received ++ delivered i s ∧
      t.sinceSwitch.length = 2 * t.received.length := by
  intro t sent
  obtain ⟨hfrom, hwhole⟩ := hphase htrust
  obtain ⟨hlength, hpair⟩ := latched_scriptOf hi hscript
  have hlatches : t.latches = s.latches ++ sent := by
    rw [State.respond_latches, (applyAll_latches hok).1, latchEvents_of_low (hlow htrust)]
    rfl
  have hpaired : t.pairedFrom = s.pairedFrom := applyAll_pairedFrom (switch4_not_mem hi hscript) s
  obtain ⟨hsince, hreceived⟩ := State.received_append hpaired hlatches hfrom hwhole
  rw [hpair] at hreceived
  refine ⟨hlatches, hreceived, ?_⟩
  rw [hsince, hreceived, List.length_append, List.length_append, hwhole, hlength, latchCount_eq hi hscript,
    Nat.mul_add]

/-- What the controller makes of an `INIT` that ends `OK`: after the nibble no one sent, if any, the four lone
nibbles, and from the 4-bit switch on the ten nibbles of the command bytes (R133 to R139). -/
theorem delivers_init {s : State} (hok : s.AllOk 42) :
    let t := (applyAll (initScript s.blInit) s).respond .ok
    let sent := Trace.latched (okEvents s.devAddr (initAfterSwitch s.blInit))
    t.latches = s.latches ++ s.strayLatch ++
        [(false, 0x3), (false, 0x3), (false, 0x3), (false, 0x2)] ++ sent ∧
      t.pairedFrom ≤ t.latches.length ∧ t.sinceSwitch = sent := by
  intro t sent
  have hlatches : t.latches = s.latches ++ s.strayLatch ++
      [(false, 0x3), (false, 0x3), (false, 0x3), (false, 0x2)] ++ sent := by
    rw [State.respond_latches, (applyAll_latches hok).1, ← okEvents, okEvents_initScript,
      Trace.okValues_append, latchEvents_xout_init]
    simp only [List.append_assoc]
    rfl
  have hpaired : t.pairedFrom = (s.latches ++ s.strayLatch ++
      [(false, 0x3), (false, 0x3), (false, 0x3), (false, (0x2 : Nibble))]).length := by
    rw [State.respond_pairedFrom, applyAll_init_pairedFrom hok, List.length_append, List.length_append]
    rfl
  refine ⟨hlatches, ?_, ?_⟩
  · rw [hpaired, hlatches]
    exact (List.prefix_append _ sent).length_le
  · rw [State.sinceSwitch, hpaired, hlatches, List.drop_left]

/-- The bytes received since the 4-bit switch of an `INIT` that ended `OK` (R135 to R139). -/
theorem pairUp_initAfterSwitch (s : State) (bl : Bool) :
    Trace.pairUp (Trace.latched (okEvents s.devAddr (initAfterSwitch bl))) = delivered .init s := by
  rw [latched_initAfterSwitch]
  rfl

/-- After an operation that ends `OK` the LCDF is to be trusted if it was before, and after `INIT` it is (R188). -/
theorem trustworthy_ok {i : Instr} {s : State} {script : List Act} (hscript : scriptOf i s = some script) :
    ((applyAll script s).respond .ok).trustworthy = if i = .init then true else s.trustworthy := by
  rw [State.trustworthy, State.respond_ready, State.respond_err, ready_ok hscript, err_ok hscript]
  split <;> rfl

/-- After an operation cut off it is not. -/
theorem trustworthy_failed (u : State) : (u.raise .transportErr).trustworthy = false :=
  Bool.and_false _

/-- Settles O36: an operation that ends `OK` adds whole bytes, `INIT` starts from whole bytes, one cut off is not
trusted, and one turned away leaves the controller alone. -/
theorem stepKeepsTrustedInPhase : Obligations.StepKeepsTrustedInPhase := by
  unfold Obligations.StepKeepsTrustedInPhase
  intro s t hlow hphase h
  rcases step_cases h with ⟨-, rfl⟩ | ⟨_, _, -, -, rfl⟩ | ⟨_, i, -, -, hexec⟩
  · exact hphase
  · exact hphase
  · cases exec_ends hexec with
    | notReady | operandFault => exact hphase
    | failed => exact fun htrust => absurd htrust (by rw [trustworthy_failed]; exact Bool.false_ne_true)
    | ok _ hscript hok =>
      intro htrust
      by_cases hi : i = .init
      · subst hi
        cases hscript
        obtain ⟨-, hfrom, hsince⟩ := delivers_init hok
        refine ⟨hfrom, ?_⟩
        rw [State.received, hsince, pairUp_initAfterSwitch, latched_initAfterSwitch]
        rfl
      · rw [trustworthy_ok hscript, if_neg hi] at htrust
        obtain ⟨hlatches, -, hwhole⟩ := delivers_ok hi hscript hok htrust hlow hphase
        refine ⟨?_, hwhole⟩
        rw [hlatches, exec_pairedFrom hi hexec, List.length_append]
        exact Nat.le_add_right_of_le (hphase htrust).1

/-! ## The bytes delivered -/

/-- Settles O50: with every write answered `OK` the operation ends `OK`. -/
theorem operationDelivers : Obligations.OperationDelivers := by
  unfold Obligations.OperationDelivers
  intro i s hi haccepts htrust hlow hphase hok
  obtain ⟨script, hscript⟩ := scriptOf_of_accepts haccepts
  rw [← xwrites_scriptOf hscript] at hok
  obtain ⟨hlatches, hreceived, hwhole⟩ := delivers_ok hi hscript hok htrust hlow hphase
  obtain ⟨hlength, hpair⟩ := latched_scriptOf hi hscript
  refine ⟨_, _, exec_allOk haccepts.1 hscript hok, ?_, hlatches, hlength, hpair, hreceived,
    State.awaitsLow_eq_false hwhole⟩
  rw [trustworthy_ok hscript, if_neg hi, htrust]

/-- Settles O51: of the four ways to end, being ready rules out the first and `err = 0` the last. -/
theorem trustedOperationDelivers : Obligations.TrustedOperationDelivers := by
  unfold Obligations.TrustedOperationDelivers
  intro i s t hi hlow hphase htrust h htrust'
  cases exec_ends h with
  | notReady _ hready => simp [State.trustworthy, hready] at htrust
  | operandFault => exact ⟨[], by simp, .inr ⟨State.lastCode_turnedAway .., rfl, rfl⟩⟩
  | ok _ hscript hok =>
    obtain ⟨hlatches, hreceived, hwhole⟩ := delivers_ok hi hscript hok htrust hlow hphase
    obtain ⟨hlength, hpair⟩ := latched_scriptOf hi hscript
    exact ⟨_, hlatches, .inl ⟨State.lastCode_respond .., hlength, hpair, hreceived,
      State.awaitsLow_eq_false hwhole⟩⟩
  | failed =>
    rw [trustworthy_failed] at htrust'
    cases htrust'

/-- Settles O52: the nibbles since the switch are those of the five frames. -/
theorem initDelivers : Obligations.InitDelivers := by
  unfold Obligations.InitDelivers
  intro s hok
  obtain ⟨hlatches, -, hsince⟩ := delivers_init hok
  have hlength : (Trace.latched (okEvents s.devAddr (initAfterSwitch s.blInit))).length = 10 := by
    rw [latched_initAfterSwitch]
    rfl
  refine ⟨_, _, exec_allOk (.inl rfl) rfl hok, trustworthy_ok (i := .init) rfl, hlatches, hsince, hlength, ?_, ?_⟩
  · rw [State.awaitsLow, hsince, Trace.awaitsLow, hlength]
    rfl
  · rw [State.received, hsince, pairUp_initAfterSwitch]

end Sys2Proof.Machine
end

section
/-! PROOFS. What of the delays is normative (R7, R40): traces with a common beginning conform exactly when the rest
does, and what is left to compare is one place. -/

namespace Sys2Proof.Machine

/-! ## The sums at the places of a trace -/

/-- Every trace has a first place. -/
theorem Trace.delayPlaces_ne_nil (t : List Event) : Trace.delayPlaces t ≠ [] := by
  cases t with
  | nil => exact List.cons_ne_nil _ _
  | cons e t =>
    cases e with
    | write => exact List.cons_ne_nil _ _
    | delay us =>
      rw [Trace.delayPlaces]
      cases Trace.delayPlaces t <;> exact List.cons_ne_nil _ _

/-- The sums of a trace, the first place apart. -/
theorem Trace.exists_delayPlaces (t : List Event) : ∃ n ns, Trace.delayPlaces t = n :: ns :=
  List.exists_cons_of_ne_nil (Trace.delayPlaces_ne_nil t)

/-- Sums are at least themselves. -/
theorem atLeast_refl (ns : List Nat) : atLeast ns ns = true := by
  induction ns with
  | nil => rfl
  | cons n ns ih => simp [atLeast, ih]

/-- Sums that agree after the first place compare by the first place. -/
theorem atLeast_cons_self (m n : Nat) (ns : List Nat) : atLeast (m :: ns) (n :: ns) = decide (m ≤ n) := by
  rw [atLeast, atLeast_refl, Bool.and_true]

/-- A common delay in front changes nothing. -/
theorem atLeast_addToHead {ms ns : List Nat} (hm : ms ≠ []) (hn : ns ≠ []) (us : Nat) :
    atLeast (addToHead us ms) (addToHead us ns) = atLeast ms ns := by
  cases ms with
  | nil => exact absurd rfl hm
  | cons m ms =>
    cases ns with
    | nil => exact absurd rfl hn
    | cons n ns => simp [addToHead, atLeast]

/-! ## Conformance -/

/-- A common first event puts no condition on conformance. -/
theorem Trace.conforms_cons (e : Event) (a b : List Event) :
    Trace.conforms (e :: a) (e :: b) = Trace.conforms a b := by
  cases e with
  | write => simp [Trace.conforms, Trace.writes, Trace.delayPlaces, atLeast]
  | delay us =>
    rw [Trace.conforms, Trace.delayPlaces, Trace.delayPlaces,
      atLeast_addToHead (Trace.delayPlaces_ne_nil a) (Trace.delayPlaces_ne_nil b)]
    rfl

/-- Nor does a common beginning. -/
theorem Trace.conforms_append (pre a b : List Event) :
    Trace.conforms (pre ++ a) (pre ++ b) = Trace.conforms a b := by
  induction pre with
  | nil => rfl
  | cons e pre ih => exact (Trace.conforms_cons e _ _).trans ih

/-- Traces with the same writes that differ in the delays at the first place only conform if that place has at least
the delay required. -/
theorem Trace.conforms_of_first_place {a b : List Event} {m n : Nat} {ns : List Nat}
    (ha : Trace.delayPlaces a = m :: ns) (hb : Trace.delayPlaces b = n :: ns)
    (hwrites : Trace.writes b = Trace.writes a) : Trace.conforms a b = decide (m ≤ n) := by
  rw [Trace.conforms, hwrites, ha, hb, atLeast_cons_self, decide_eq_true rfl, Bool.true_and]

/-- Settles O53: the common beginning put aside, each clause compares the first place of what is left. -/
theorem delaysMergeAndLengthen : Obligations.DelaysMergeAndLengthen := by
  unfold Obligations.DelaysMergeAndLengthen
  intro pre post a b
  obtain ⟨n, ns, hpost⟩ := Trace.exists_delayPlaces post
  have hone (us : Nat) : Trace.delayPlaces (.delay us :: post) = (us + n) :: ns := by
    rw [Trace.delayPlaces, hpost, addToHead]
  have htwo : Trace.delayPlaces (.delay a :: .delay b :: post) = (a + (b + n)) :: ns := by
    rw [Trace.delayPlaces, hone, addToHead]
  simp only [List.append_assoc, Trace.conforms_append, List.cons_append, List.nil_append]
  refine ⟨?_, ?_, fun hb => ?_, fun hb d p v r => ?_⟩
  · rw [Trace.conforms_of_first_place htwo (hone (a + b)) rfl]
    exact decide_eq_true (by omega)
  · rw [Trace.conforms_of_first_place (hone a) (hone (a + b)) rfl]
    exact decide_eq_true (by omega)
  · rw [Trace.conforms_of_first_place (hone (a + b)) (hone a) rfl]
    exact decide_eq_false (by omega)
  · have hb' : ¬ b ≤ 0 := Nat.not_le.mpr hb
    simp [Trace.conforms, Trace.delayPlaces, addToHead, atLeast, hb']

end Sys2Proof.Machine
end

section
/-! PROOFS. `PRINT_STR` at the host (R103): one `PRINT` per character, in order, up to the first that does not end
`OK`. -/

namespace Sys2Proof.Machine

/-! ## One character -/

/-- The low byte of a character's code point (R64, R102). -/
theorem setWidth_codePoint (n : Nat) : (BitVec.ofNat 24 n).setWidth 8 = BitVec.ofNat 8 n :=
  BitVec.setWidth_ofNat_of_le (by decide) n

/-- The state after the `PRINT` of a character with every write answered `OK`. -/
def State.printed (s : State) (c : Char) : State :=
  s.endedOk (s.frameTrace (BitVec.ofNat 8 c.toNat) true s.bl) 6
    (pack (lowNibble (BitVec.ofNat 8 c.toNat)) true false s.bl)

/-- The `PRINT` of a character as the host's loop performs it is the operation. -/
theorem whenReady_printBody {cp : BitVec 24} {s t : State} (h : exec (.print cp) s = .next t) :
    s.whenReady (printBody cp) = t :=
  Host.Outcome.next.inj h

theorem exec_printed {s : State} (hready : s.ready = true) (hok : s.AllOk 6) (c : Char) :
    exec (.print (BitVec.ofNat 24 c.toNat)) s = .next (s.printed c) := by
  rw [printCompletes _ s hready hok, setWidth_codePoint]
  rfl

/-- A `PRINT` that ends `OK` is followed by the rest of the text. -/
theorem printStr_cons_ok {s : State} (hready : s.ready = true) (hok : s.AllOk 6) (c : Char)
    (text : List Char) : printStr (c :: text) s = printStr text (s.printed c) := by
  have hcode : (s.printed c).lastCode = some .ok := by simp [State.lastCode, State.printed]
  rw [printStr, whenReady_printBody (exec_printed hready hok c)]
  simp only [hcode]

/-- A `PRINT` that does not end `OK` ends the text. -/
theorem printStr_cons_stop {s t : State} {c : Char} {r : ResponseCode}
    (hprint : exec (.print (BitVec.ofNat 24 c.toNat)) s = .next t) (hcode : t.lastCode = some r)
    (hr : r ≠ .ok) (text : List Char) : printStr (c :: text) s = (t, r) := by
  rw [printStr, whenReady_printBody hprint]
  simp only [hcode]

/-- The answers to come after the `PRINT` of a character. -/
theorem answerAt_printed (s : State) (c : Char) (k : Nat) :
    (s.printed c).answerAt k = s.answerAt (6 + k) := by
  simp [State.answerAt, State.printed, Nat.add_assoc]

theorem State.AllOk.printed {s : State} {n : Nat} (h : s.AllOk (6 + n)) (c : Char) :
    (s.printed c).AllOk n := fun k hk => by
  rw [answerAt_printed]
  exact h (6 + k) (by omega)

/-! ## Every write answered `OK` -/

/-- Settles O55: by induction on the text, each `PRINT` ending `OK` and leaving `BL` and `DEV_ADDR` to the next. -/
theorem printStrSendsEveryCharacter : Obligations.PrintStrSendsEveryCharacter := by
  unfold Obligations.PrintStrSendsEveryCharacter
  intro text
  induction text with
  | nil => simp [printStr]
  | cons c text ih =>
    intro s hready hok
    rw [List.length_cons, Nat.mul_succ, Nat.add_comm] at hok
    obtain ⟨hcode, hopi, htrace⟩ := ih (s.printed c) hready (hok.printed c)
    rw [printStr_cons_ok hready (hok.mono (Nat.le_add_right ..))]
    refine ⟨hcode, ?_, ?_⟩
    · rw [hopi, State.printed, State.endedOk_opi, List.length_cons]
      omega
    · rw [htrace, List.flatMap_cons, ← List.append_assoc]
      rfl

/-! ## A failing write -/

/-- A `PRINT` cut off at its write `m` (R151). -/
theorem exec_print_failsAt {s : State} {m : Nat} (hready : s.ready = true) (hm : m < 6)
    (hfail : s.FailsAt m) (cp : BitVec 24) :
    ∃ t, exec (.print cp) s = .next t ∧ t.lastCode = some .transportErr ∧ t.opi = s.opi + 1 ∧
      Trace.writeCount (s.newEvents t) = m + 1 := by
  have haccepts : s.Accepts (.print cp) := ⟨.inr hready, nofun⟩
  obtain ⟨t, ht, hcode, -, -, hcount, -⟩ := transportFaultEndsOperation.2 _ s m haccepts hm hfail
  obtain ⟨-, -, -, hopi, -⟩ := operationFrame _ s t ht
  exact ⟨t, ht, hcode, hopi, hcount⟩

/-- The trace of the host's loop only grows. -/
theorem printStr_trace (text : List Char) (s : State) : s.trace <+: (printStr text s).1.trace := by
  induction text generalizing s with
  | nil => exact List.prefix_refl _
  | cons c text ih =>
    have hprint := exec_trace (exec_eq (.print (BitVec.ofNat 24 c.toNat)) s)
    have hstep : s.trace <+: (s.whenReady (printBody (BitVec.ofNat 24 c.toNat))).trace :=
      whenReady_printBody (exec_eq (.print (BitVec.ofNat 24 c.toNat)) s) ▸ ⟨_, hprint.symm⟩
    rw [printStr]
    split
    · exact hstep.trans (ih _)
    · exact hstep
    · exact hstep

/-- The writes of the host's loop after a first character. -/
theorem writeCount_printed (text : List Char) (s : State) (c : Char) :
    Trace.writeCount (s.newEvents (printStr text (s.printed c)).1) =
      6 + Trace.writeCount ((s.printed c).newEvents (printStr text (s.printed c)).1) := by
  obtain ⟨events, hevents⟩ := printStr_trace text (s.printed c)
  simp only [State.newEvents, ← hevents, List.drop_left]
  rw [State.printed, State.endedOk_trace, List.append_assoc, List.drop_left, Trace.writeCount_append]
  rfl

/-- With the write `m` of character `j` failing the host's loop stops there (R103). -/
theorem printStr_failsAt (text : List Char) (s : State) (j m : Nat) (hready : s.ready = true)
    (hj : j < text.length) (hm : m < 6) (hfail : s.FailsAt (6 * j + m)) :
    (printStr text s).2 = .transportErr ∧ (printStr text s).1.opi = s.opi + j + 1 ∧
      Trace.writeCount (s.newEvents (printStr text s).1) = 6 * j + m + 1 := by
  induction text generalizing s j with
  | nil => cases hj
  | cons c text ih =>
    cases j with
    | zero =>
      rw [Nat.mul_zero, Nat.zero_add] at hfail ⊢
      obtain ⟨t, ht, hcode, hopi, hcount⟩ := exec_print_failsAt hready hm hfail (BitVec.ofNat 24 c.toNat)
      rw [printStr_cons_stop ht hcode (by decide)]
      exact ⟨rfl, hopi, hcount⟩
    | succ j =>
      have hshift : 6 * (j + 1) + m = 6 + (6 * j + m) := by omega
      rw [hshift] at hfail ⊢
      have hfail' : (s.printed c).FailsAt (6 * j + m) :=
        ⟨hfail.1.printed c, (answerAt_printed s c _).trans hfail.2⟩
      obtain ⟨hcode, hopi, hcount⟩ := ih (s.printed c) j hready (Nat.lt_of_succ_lt_succ hj) hfail'
      rw [printStr_cons_ok hready (hfail.1.mono (Nat.le_add_right ..))]
      refine ⟨hcode, ?_, ?_⟩
      · rw [hopi, State.printed, State.endedOk_opi]
        omega
      · rw [writeCount_printed, hcount]
        omega

/-- Settles O56: the characters before the failing one end `OK`; not ready, the first one is turned away. -/
theorem printStrStopsAtFailure : Obligations.PrintStrStopsAtFailure := by
  unfold Obligations.PrintStrStopsAtFailure
  refine ⟨fun text s j m => printStr_failsAt text s j m, fun c text s hready => ?_⟩
  have hprint : exec (.print (BitVec.ofNat 24 c.toNat)) s = .next (s.turnedAway .notReady) := by
    rw [exec_eq, outcome_of_not_ready (i := .print _) nofun hready]
  exact printStr_cons_stop hprint (State.lastCode_turnedAway ..) (by decide) text

end Sys2Proof.Machine
end
